-- ==== Sys2Proof/Word.lean ====
section
/-! DEFINITION. The words of the block: 64-bit lanes and bus words (R8, R20, R54) and the 8-bit bytes of MSG and DIGEST_HEX. -/

namespace Sys2Proof

/-- One 64-bit unsigned lane of the permutation state (R8, R20). -/
abbrev Lane := BitVec 64

/-- One 64-bit word of the host bus, of CMD, LEN, STATUS and RESULT (R54, R82). -/
abbrev Word := BitVec 64

/-- One byte of MSG or of DIGEST_HEX (R26, R27). -/
abbrev Byte := BitVec 8

end Sys2Proof
end

