-- ==== Sys2Proof/Config.lean ====
section
/-! DEFINITION. What an implementation fixes and what the spec leaves open: the default of MSG_CAP (R7) and the
two free values (R29, R44; 93_implementation_defined.md I1, I2). -/

namespace Sys2Proof

/-- MSG_CAP of a concrete machine: "The value 4096 is the spec's default for a concrete instance" (R7).
The model itself takes MSG_CAP as an argument: it stands in State, field `cap`. -/
def Config.msgCapDefault : Nat := 4096

/-- FREE VALUE. What MSG byte `i` holds from power-on number `draw` until the host writes it (R44, R201, I2):
a draw for each byte, fixed. It has no body, so nothing can be proved of a value of it. -/
opaque Config.powerOnByte : (draw i : Nat) → Byte

/-- FREE VALUE. What the n-th host read answers if it reads the STATE window while BUSY = 1 (R29, R60, I1):
"a draw (any value), independent for every read". It has no body. -/
opaque Config.busyLane : (n : Nat) → Word

end Sys2Proof
end

