-- ==== Sys2Proof/Syntax.lean ====
section
/-! DEFINITION. The instructions of the block: its ten legal command words (R86, spec/opcode_table.json),
one constructor for each row. A command has no operand but what its own word fixes (R90). -/

namespace Sys2Proof

/-- The ten commands of R86. VARIANT and PAD are part of the word, so no constructor carries an operand. -/
inductive Instr where
  /-- `hash.sha3_224`, word 0x001 (R86, R131). -/
  | hashSha3_224
  /-- `hash.sha3_256`, word 0x011 (R86, R131). -/
  | hashSha3_256
  /-- `hash.sha3_384`, word 0x021 (R86, R131). -/
  | hashSha3_384
  /-- `hash.sha3_512`, word 0x031 (R86, R131). -/
  | hashSha3_512
  /-- `hash.keccak_224`, word 0x101 (R86, R131). -/
  | hashKeccak_224
  /-- `hash.keccak_256`, word 0x111 (R86, R131). -/
  | hashKeccak_256
  /-- `hash.keccak_384`, word 0x121 (R86, R131). -/
  | hashKeccak_384
  /-- `hash.keccak_512`, word 0x131 (R86, R131). -/
  | hashKeccak_512
  /-- `permute`, word 0x002 (R86, R134). -/
  | permute
  /-- `clear`, word 0x003 (R86, R135). -/
  | clear
deriving DecidableEq, Repr

end Sys2Proof
end

