-- ==== Sys2Proof/WellFormed.lean ====
section
/-! DEFINITION. The checks on what a user of the model supplies: the parameter MSG_CAP (R7), the fields of a
command word (R82 to R85) and the offset of a host transaction (R53, R81). -/

namespace Sys2Proof

/-- R7: "every legal value is a multiple of 8 in [256, 65536]". -/
def legalMsgCap (cap : Nat) : Bool :=
  decide (256 ≤ cap) && decide (cap ≤ 65536) && decide (cap % 8 = 0)

/-- The five fields of a command word (R82), before any check. -/
structure CommandFields where
  /-- OP, bits [3:0] (R83). -/
  op : BitVec 4
  /-- VARIANT, bits [5:4] (R84). -/
  variant : BitVec 2
  /-- RSV0, bits [7:6]. -/
  rsv0 : BitVec 2
  /-- PAD, bits [9:8] (R85). -/
  pad : BitVec 2
  /-- RSV1, bits [63:10]. -/
  rsv1 : BitVec 54
deriving DecidableEq, Repr

/-- R83, R85, R86: OP is 1, 2 or 3; the reserved fields are 0; a HASH has PAD 0 or 1; PERMUTE and CLEAR have no
other bit set. -/
def CommandFields.wellFormed (f : CommandFields) : Bool :=
  f.rsv0 == 0 && f.rsv1 == 0 &&
    ((f.op == 1 && (f.pad == 0 || f.pad == 1)) ||
      ((f.op == 2 || f.op == 3) && f.variant == 0 && f.pad == 0))

/-- R53, R81: a host transaction reaches a register only with off[2:0] = 0. -/
def alignedOffset (off : BitVec 17) : Bool := off.extractLsb' 0 3 == 0

end Sys2Proof
end

