-- ==== Sys2Proof/Decode.lean ====
section
/-! DEFINITION. The command decoder of R87, total on 64-bit words, and the encoder of the table of R86. -/

namespace Sys2Proof

/-- Why a word is no command: ILLEGAL(1) or ILLEGAL(2) of R87. -/
inductive Illegal where
  /-- ILLEGAL(1), ERR_CMD: no command has this shape (R88). -/
  | cmd
  /-- ILLEGAL(2), ERR_PAD: a HASH word with PAD 2 or 3 (R85, R88). -/
  | pad
deriving DecidableEq, Repr

/-- The fields of a word, by the format of R82. -/
def fieldsOf (w : Word) : CommandFields where
  op := w.extractLsb' 0 4
  variant := w.extractLsb' 4 2
  rsv0 := w.extractLsb' 6 2
  pad := w.extractLsb' 8 2
  rsv1 := w.extractLsb' 10 54

/-- HASH(var, pad) of R87 for PAD 0 (sha-3, R85), by VARIANT (R84). -/
def sha3Instr (var : BitVec 2) : Instr :=
  if var = 0 then .hashSha3_224
  else if var = 1 then .hashSha3_256
  else if var = 2 then .hashSha3_384
  else .hashSha3_512

/-- HASH(var, pad) of R87 for PAD 1 (keccak, R85), by VARIANT (R84). -/
def keccakInstr (var : BitVec 2) : Instr :=
  if var = 0 then .hashKeccak_224
  else if var = 1 then .hashKeccak_256
  else if var = 2 then .hashKeccak_384
  else .hashKeccak_512

/-- `Decode(w)` of R87. -/
def decode (w : Word) : Except Illegal Instr :=
  if w = 0x2 then .ok .permute
  else if w = 0x3 then .ok .clear
  else if w.extractLsb' 0 4 = 0x1 ∧ w.extractLsb' 6 2 = 0 ∧ w.extractLsb' 10 54 = 0 then
    if w.extractLsb' 8 2 = 0 then .ok (sha3Instr (w.extractLsb' 4 2))
    else if w.extractLsb' 8 2 = 1 then .ok (keccakInstr (w.extractLsb' 4 2))
    else .error .pad
  else .error .cmd

/-- The instruction the decoder reads from a table row's bits: a command is one 64-bit bus word (R80, R89), and a
row shorter than that has zeros above. -/
def decodeTableWord (nbits w : Nat) : Option Instr :=
  if nbits ≤ 64 then (decode (BitVec.ofNat 64 (w % 2 ^ nbits))).toOption else none

/-- The fields of each command, from the table of R86. -/
def Instr.fields : Instr → CommandFields
  | .hashSha3_224 => ⟨1, 0, 0, 0, 0⟩
  | .hashSha3_256 => ⟨1, 1, 0, 0, 0⟩
  | .hashSha3_384 => ⟨1, 2, 0, 0, 0⟩
  | .hashSha3_512 => ⟨1, 3, 0, 0, 0⟩
  | .hashKeccak_224 => ⟨1, 0, 0, 1, 0⟩
  | .hashKeccak_256 => ⟨1, 1, 0, 1, 0⟩
  | .hashKeccak_384 => ⟨1, 2, 0, 1, 0⟩
  | .hashKeccak_512 => ⟨1, 3, 0, 1, 0⟩
  | .permute => ⟨2, 0, 0, 0, 0⟩
  | .clear => ⟨3, 0, 0, 0, 0⟩

/-- A command is well formed when its fields are (every constructor is: R86). -/
def Instr.wellFormed (i : Instr) : Bool := i.fields.wellFormed

/-- The word of a command: its fields in the places of R82, RSV1 highest. -/
def encode (i : Instr) : Word :=
  let f := i.fields
  f.rsv1 ++ f.pad ++ f.rsv0 ++ f.variant ++ f.op

end Sys2Proof
end

