-- ==== Sys2Proof/Machine/State.lean ====
section
/-! DEFINITION. The state of the block as plain data (10_state.md), the reasons a step can stop (none: R188), and
the state after power-on reset (R200, R201). -/

namespace Sys2Proof.Machine

/-- Row y of the lane array: the five lanes A[0..4][y] (00_scope.md §6). -/
structure Row where
  x0 : Lane
  x1 : Lane
  x2 : Lane
  x3 : Lane
  x4 : Lane
deriving DecidableEq, Repr

/-- The lane array A, 5 × 5 lanes of 64 bits (R20), held as its five rows. -/
structure Lanes where
  y0 : Row
  y1 : Row
  y2 : Row
  y3 : Row
  y4 : Row
deriving DecidableEq, Repr

/-- A row of zeros. -/
def Row.zero : Row := ⟨0, 0, 0, 0, 0⟩

/-- The zero state (R20, R131, R200). -/
def Lanes.zero : Lanes := ⟨Row.zero, Row.zero, Row.zero, Row.zero, Row.zero⟩

/-- `phase` of the sequencer (R31). -/
inductive Phase where
  | idle
  | absorb
  | round
  | format
deriving DecidableEq, Repr

/-- `op` of the run context (R32). -/
inductive Op where
  | none
  | hash
  | permute
deriving DecidableEq, Repr

/-- The two padding families that have an entry in DOM (R85, R171): PAD 0 and PAD 1. -/
inductive Padding where
  | sha3
  | keccak
deriving DecidableEq, Repr

/-- The causes of a rejection (R180). -/
inductive ErrCode where
  /-- ERR_CMD: the word is illegal. -/
  | cmd
  /-- ERR_PAD: a HASH word with PAD 2 or 3. -/
  | pad
  /-- ERR_LEN: a HASH while LEN > MSG_CAP. -/
  | len
  /-- ERR_BUSY: a CMD write while BUSY = 1. -/
  | busy
  /-- ERR_BUSYWR: a LEN or MSG write while BUSY = 1. -/
  | busyWr
deriving DecidableEq, Repr

/-- The run context latched by an accepted command (R32), under the spec's names. -/
structure RunContext where
  op : Op
  var : BitVec 2
  pad : BitVec 2
  /-- The rate in bytes. -/
  R : BitVec 8
  /-- The output length in bits. -/
  N : BitVec 10
  /-- The domain byte. -/
  d : Byte
  /-- The message length, a copy of LEN. -/
  L : Word
  nblk : BitVec 32
deriving DecidableEq, Repr

/-- The run context after reset: op = NONE, every other field 0 (R32). -/
def RunContext.empty : RunContext := ⟨.none, 0, 0, 0, 0, 0, 0, 0⟩

/-- The MSG bytes that the host has written: (index, byte) pairs, indexes strictly rising (`Memory.wf`). An index
that is not listed has no byte here: it reads as its power-on draw (R44, log entry 4). -/
abbrev Memory := List Host.Cell

/-- One host transaction (R81): the wires bus_we, bus_off and bus_wdata of R38. -/
inductive Transaction where
  /-- `MemRead(off, 8)`. -/
  | read (off : BitVec 17)
  /-- `MemWrite(off, 8, v)`. -/
  | write (off : BitVec 17) (v : Word)
deriving DecidableEq, Repr

/-- Whose step is next (R5, R66): the host's transaction, one step of the engine, or the reset input (R200). -/
inductive Turn where
  | host (t : Transaction)
  | engine
  | reset
deriving DecidableEq, Repr

/-- What the bus shows of the step just taken (bus_ack and bus_rdata of R38). -/
inductive BusOut where
  /-- No transaction was performed. -/
  | quiet
  /-- A write was performed. -/
  | ack
  /-- A read was performed and answered `v`. -/
  | data (v : Word)
deriving DecidableEq, Repr

/-- The whole block (10_state.md), and below it the fields that are the model's own. -/
structure State where
  /-- A, the 25 lanes (R20). -/
  lanes : Lanes
  /-- MSG_CAP, which CAP reads (R7, R22); no step changes it. -/
  cap : Nat
  /-- STATUS.BUSY (R23). -/
  busy : Bool
  /-- STATUS.DONE (R23). -/
  done : Bool
  /-- STATUS.ERRCODE, 4 bits (R23, R180). -/
  errcode : BitVec 4
  /-- LEN (R24). -/
  len : Word
  /-- RESULT, all 64 bits (R25). -/
  result : Word
  /-- DIGEST_HEX, DH[0..127] (R26). -/
  digestHex : Vector Byte 128
  /-- MSG: the bytes written so far (R27, R44). -/
  msg : Memory
  /-- The sequencer's phase (R31). -/
  phase : Phase
  /-- The round index of the next ROUND step, 0..23 (R31). -/
  rnd : Fin 24
  /-- The index of the current block, 32 bits (R31). -/
  blk : BitVec 32
  /-- The run context (R32). -/
  ctx : RunContext
  /-- MODEL'S OWN: which power-on draw the unwritten MSG bytes take (log entry 4). -/
  msgDraw : Nat
  /-- MODEL'S OWN: the number of host reads so far; the next STATE read while busy draws with it (log entry 5). -/
  draws : Nat
  /-- MODEL'S OWN: the turns to come, in order: every interleaving of host, engine and reset (log entry 1). -/
  schedule : List Turn
  /-- The bus outputs of the last step (R38; log entry 6). -/
  bus : BusOut
deriving DecidableEq, Repr

/-- Why the machine stops with a fault: never. "The engine never faults" (R188), a rejection is a code in STATUS and no
trap (R187), and an unmapped or misaligned access reads 0 or is ignored (R53, R57). The type has no constructor, so
nobody raises one: safe. -/
inductive Fault where
deriving DecidableEq, Repr

/-- Why an instruction has no meaning. -/
inductive Refusal where
  /-- Raised by an arm of exec whose instruction has no meaning yet; no arm is one. Safe: it only stops. -/
  | notModelled (mnemonic : String)
deriving DecidableEq, Repr

/-- Power-on (R201) of an instance with message capacity `cap`, whose MSG bytes hold draw number `msgDraw`:
every register at its reset value (R200), phase IDLE, and no MSG byte written. -/
def State.powerOn (cap msgDraw : Nat) : State where
  lanes := Lanes.zero
  cap := cap
  busy := false
  done := false
  errcode := 0
  len := 0
  result := 0
  digestHex := Vector.replicate 128 0
  msg := []
  phase := .idle
  rnd := 0
  blk := 0
  ctx := RunContext.empty
  msgDraw := msgDraw
  draws := 0
  schedule := []
  bus := .quiet

/-- The machine right after reset: the spec's default instance, MSG_CAP = 4096 (R7, R200, R201). The values of
`msgDraw`, `draws`, `schedule` and `bus` are the model's (log entries 1, 4, 5, 6). -/
def State.reset : State := State.powerOn Config.msgCapDefault 0

end Sys2Proof.Machine
end

