-- ==== Sys2Proof/Machine/Flags.lean ====
section
/-! DEFINITION. STATUS, RESULT and the output ports: the codes of R180, the layouts of R23 and R25, and the level
outputs of R38 and R186. -/

namespace Sys2Proof.Machine

/-- The ERRCODE of each cause (R180). -/
def ErrCode.code : ErrCode → BitVec 4
  | .cmd => 1
  | .pad => 2
  | .len => 3
  | .busy => 4
  | .busyWr => 5

/-- The cause that a failed decode reports (R87, R130). -/
def illegalCode : Illegal → ErrCode
  | .cmd => .cmd
  | .pad => .pad

/-- The STATUS word (R23): [63:8] 0, [7:4] ERRCODE, [3:2] 0, [1] DONE, [0] BUSY. -/
def statusWord (s : State) : Word :=
  0#56 ++ s.errcode ++ 0#2 ++ BitVec.ofBool s.done ++ BitVec.ofBool s.busy

/-- The RESULT word (R25): [63:32] NBLK, [31:14] 0, [13:12] PAD, [11:10] 0, [9:8] VARIANT, [7:0] HEXLEN. -/
def resultWord (nblk : BitVec 32) (pad var : BitVec 2) (hexlen : BitVec 8) : Word :=
  nblk ++ 0#18 ++ pad ++ 0#2 ++ var ++ hexlen

/-- RESULT.HEXLEN (R25). -/
def resultHexlen (r : Word) : BitVec 8 := r.extractLsb' 0 8
/-- RESULT.VARIANT (R25). -/
def resultVariant (r : Word) : BitVec 2 := r.extractLsb' 8 2
/-- RESULT.PAD (R25). -/
def resultPad (r : Word) : BitVec 2 := r.extractLsb' 12 2
/-- RESULT.NBLK (R25). -/
def resultNblk (r : Word) : BitVec 32 := r.extractLsb' 32 32

/-- The output `busy` (R23, R38). -/
def busyOut (s : State) : Bool := s.busy
/-- The output `done`, "a level equal to STATUS.DONE" (R186). -/
def doneOut (s : State) : Bool := s.done
/-- The output `err`, "a level equal to (ERRCODE ≠ 0)" (R186). -/
def errOut (s : State) : Bool := s.errcode != 0

end Sys2Proof.Machine
end

