-- ==== Sys2Proof/Machine/Ops.lean ====
section
/-! DEFINITION. The named operations on lanes, words, MSG and STATUS that the meanings share, the rejection of a
command (the block's only exception, R10, R181), its issue (R130), and the reset event (R200). -/

namespace Sys2Proof.Machine

/-! ### Words and bytes -/

/-- `ROTL64(v, n)` (R9, R111). -/
def rotl64 (v : Lane) (n : Nat) : Lane :=
  if n % 64 = 0 then v else (v <<< (n % 64)) ||| (v >>> (64 - n % 64))

/-- `LE64(b0, ..., b7)`: byte i lands in bits [8i+7:8i] (R10, R50). -/
def le64 (b : Nat → Byte) : Word :=
  b 7 ++ b 6 ++ b 5 ++ b 4 ++ b 3 ++ b 2 ++ b 1 ++ b 0

/-- `v[8i+7:8i]`, byte i of a bus word or of a lane (R50, R51). -/
def byteOf (v : Word) (i : Nat) : Byte := v.extractLsb' (8 * i) 8

/-! ### The lane array (R10, R11, R20) -/

/-- The lane at column x of a row. -/
def Row.get (r : Row) (x : Fin 5) : Lane :=
  match x with
  | 0 => r.x0
  | 1 => r.x1
  | 2 => r.x2
  | 3 => r.x3
  | 4 => r.x4

/-- Row y. -/
def Lanes.row (a : Lanes) (y : Fin 5) : Row :=
  match y with
  | 0 => a.y0
  | 1 => a.y1
  | 2 => a.y2
  | 3 => a.y3
  | 4 => a.y4

/-- `A[x][y]` (R10). -/
def Lanes.get (a : Lanes) (x y : Fin 5) : Lane := (a.row y).get x

/-- The row whose lane at column x is `f x`. -/
def Row.ofFn (f : Fin 5 → Lane) : Row := ⟨f 0, f 1, f 2, f 3, f 4⟩

/-- The lane array whose A[x][y] is `f x y`. -/
def Lanes.ofFn (f : Fin 5 → Fin 5 → Lane) : Lanes :=
  ⟨Row.ofFn (f · 0), Row.ofFn (f · 1), Row.ofFn (f · 2), Row.ofFn (f · 3), Row.ofFn (f · 4)⟩

/-- `A[x][y] <- v` (R10). -/
def Lanes.set (a : Lanes) (x y : Fin 5) (v : Lane) : Lanes :=
  Lanes.ofFn fun x' y' => if x' = x ∧ y' = y then v else a.get x' y'

/-- Lane number k = x + 5·y (R11, R20). -/
def laneIndex (x y : Fin 5) : Nat := x.val + 5 * y.val

/-- Lane k, that is A[k mod 5][k div 5], for k < 25 (R11, R20). -/
def Lanes.lane (a : Lanes) (k : Nat) : Lane := a.get (Fin.ofNat 5 k) (Fin.ofNat 5 (k / 5))

/-! ### The message buffer (R27, R44) -/

/-- The indexes of `m` lie at or above `lo`, rise strictly and stay below `cap`. -/
def Memory.wfFrom (cap lo : Nat) : Memory → Bool
  | [] => true
  | (i, _) :: rest => decide (lo ≤ i) && decide (i < cap) && Memory.wfFrom cap (i + 1) rest

/-- The canonical form: indexes strictly rising, all inside MSG[0..cap−1] (R27). An unlisted index holds no byte of
this list, so no listed entry repeats what an unlisted index reads as. -/
def Memory.wf (cap : Nat) (m : Memory) : Bool := Memory.wfFrom cap 0 m

/-- The byte written at index i, if the host has written one. -/
def Memory.find : Memory → Nat → Option Byte
  | [], _ => none
  | (j, b) :: rest, i => if i = j then some b else Memory.find rest i

/-- `MSG[i] <- b`, in canonical form. -/
def Memory.insert : Memory → Nat → Byte → Memory
  | [], i, b => [(i, b)]
  | (j, c) :: rest, i, b =>
    if i < j then (i, b) :: (j, c) :: rest
    else if i = j then (i, b) :: rest
    else (j, c) :: Memory.insert rest i b

/-- `MSG[i]` (R10, R27): the byte last written there, or its power-on draw (R44). -/
def msgByte (s : State) (i : Nat) : Byte :=
  (Memory.find s.msg i).getD (Config.powerOnByte s.msgDraw i)

/-- The list after `for b in 0..7: MSG[i+b] <- v[8b+7:8b]` (R61). -/
def Memory.insertWord (m : Memory) (i : Nat) (v : Word) : Memory :=
  (List.range 8).foldl (fun m b => Memory.insert m (i + b) (byteOf v b)) m

/-- The MSG write of R61 while idle. -/
def writeMsgWord (i : Nat) (v : Word) (s : State) : State :=
  { s with msg := Memory.insertWord s.msg i v }

/-! ### Rejection, issue and reset -/

/-- `raise Reject(e)` (R10, R181): ERRCODE holds the code, and nothing else changes. The block has no other
exception, saves nothing, changes no mode, and has no return from one (R187). -/
def reject (e : ErrCode) (s : State) : State := { s with errcode := e.code }

/-- The frame of `Command(w)` (R130) around one command: ERR_BUSY while BUSY = 1 and nothing else (R183); else DONE is
cleared, and then the command's own effect follows. -/
def issue (effect : State → State) (s : State) : State :=
  if s.busy then reject .busy s else effect { s with done := false }

/-- `Reset()` (R200): every register and the sequencer at its reset value, MSG unchanged. MSG_CAP and the model's own
fields are not the block's registers and stay. -/
def resetBlock (s : State) : State :=
  { s with
    lanes := Lanes.zero
    busy := false
    done := false
    errcode := 0
    len := 0
    result := 0
    digestHex := Vector.replicate 128 0
    phase := .idle
    rnd := 0
    blk := 0
    ctx := RunContext.empty }

end Sys2Proof.Machine
end

