-- ==== Sys2Proof/Machine/Clear.lean ====
section
/-! DEFINITION. The command CLEAR (R135). -/

namespace Sys2Proof.Machine

/-- `ExecClear()` (R135): A, RESULT and DIGEST_HEX are zeroed within the write itself. -/
def clearResults (s : State) : State :=
  { s with
    errcode := 0
    lanes := Lanes.zero
    result := 0
    digestHex := Vector.replicate 128 0 }

/-- `clear` (R86, R130, R135). -/
def execClear (s : State) : Host.Outcome State Fault Refusal := .next (issue clearResults s)

end Sys2Proof.Machine
end

