-- ==== Sys2Proof/Machine/Operands.lean ====
section
/-! DEFINITION. The operands of a HASH: the variant table (R170), the domain table (R171), the block count (R104) and
the padded message (R100 to R103). -/

namespace Sys2Proof.Machine

/-- VARTAB, the rate R in bytes (R170). -/
def rateBytes (var : BitVec 2) : BitVec 8 :=
  if var = 0 then 144 else if var = 1 then 136 else if var = 2 then 104 else 72

/-- VARTAB, the output length N in bits (R170). -/
def outputBits (var : BitVec 2) : BitVec 10 :=
  if var = 0 then 224 else if var = 1 then 256 else if var = 2 then 384 else 512

/-- VARTAB, the capacity c in bits (R170, R172). -/
def capacityBits (var : BitVec 2) : Nat :=
  if var = 0 then 448 else if var = 1 then 512 else if var = 2 then 768 else 1024

/-- The PAD field of each padding family (R85). -/
def padField : Padding → BitVec 2
  | .sha3 => 0
  | .keccak => 1

/-- DOM (R171). -/
def domainByte : Padding → Byte
  | .sha3 => 0x06
  | .keccak => 0x01

/-- The number q of padding bytes, `q = R − (L mod R)` (R100). -/
def padLength (L R : Nat) : Nat := R - L % R

/-- The number of blocks, `nblk = L div R + 1` (R104). -/
def blockCount (L R : Nat) : Nat := L / R + 1

/-- Byte j of the q padding bytes (R101, R102), as R103 reads it. -/
def padByte (q : Nat) (d : Byte) (j : Nat) : Byte :=
  if q = 1 then d ||| 0x80
  else if j = 0 then d
  else if j = q - 1 then 0x80
  else 0x00

/-- `P(i)` (R103) of the message bytes `msg`, length L, padding q and domain byte d. -/
def paddedByte (msg : Nat → Byte) (L q : Nat) (d : Byte) (i : Nat) : Byte :=
  if i < L then msg i else padByte q d (i - L)

/-- `P(i)` as the engine reads it: MSG and the run context, `q = nblk·R − L` (R103). -/
def enginePadded (s : State) (i : Nat) : Byte :=
  paddedByte (msgByte s) s.ctx.L.toNat
    (s.ctx.nblk.toNat * s.ctx.R.toNat - s.ctx.L.toNat) s.ctx.d i

end Sys2Proof.Machine
end

