-- ==== Sys2Proof/Machine/Hash.lean ====
section
/-! DEFINITION. The eight HASH commands (R131). -/

namespace Sys2Proof.Machine

/-- The run context that an accepted HASH latches (R32, R131). -/
def hashContext (var : BitVec 2) (p : Padding) (len : Word) : RunContext where
  op := .hash
  var := var
  pad := padField p
  R := rateBytes var
  N := outputBits var
  d := domainByte p
  L := len
  nblk := BitVec.ofNat 32 (blockCount len.toNat (rateBytes var).toNat)

/-- `ExecHash(var, pad)` (R131): ERR_LEN if LEN > MSG_CAP (R182, unsigned), else the run starts. -/
def execHash (var : BitVec 2) (p : Padding) (s : State) : State :=
  if s.cap < s.len.toNat then reject .len s
  else
    { s with
      errcode := 0
      ctx := hashContext var p s.len
      blk := 0
      lanes := Lanes.zero
      busy := true
      phase := .absorb }

/-- `hash.sha3_224` (R86, R130, R131). -/
def execHashSha3_224 (s : State) : Host.Outcome State Fault Refusal := .next (issue (execHash 0 .sha3) s)
/-- `hash.sha3_256` (R86, R130, R131). -/
def execHashSha3_256 (s : State) : Host.Outcome State Fault Refusal := .next (issue (execHash 1 .sha3) s)
/-- `hash.sha3_384` (R86, R130, R131). -/
def execHashSha3_384 (s : State) : Host.Outcome State Fault Refusal := .next (issue (execHash 2 .sha3) s)
/-- `hash.sha3_512` (R86, R130, R131). -/
def execHashSha3_512 (s : State) : Host.Outcome State Fault Refusal := .next (issue (execHash 3 .sha3) s)
/-- `hash.keccak_224` (R86, R130, R131). -/
def execHashKeccak_224 (s : State) : Host.Outcome State Fault Refusal := .next (issue (execHash 0 .keccak) s)
/-- `hash.keccak_256` (R86, R130, R131). -/
def execHashKeccak_256 (s : State) : Host.Outcome State Fault Refusal := .next (issue (execHash 1 .keccak) s)
/-- `hash.keccak_384` (R86, R130, R131). -/
def execHashKeccak_384 (s : State) : Host.Outcome State Fault Refusal := .next (issue (execHash 2 .keccak) s)
/-- `hash.keccak_512` (R86, R130, R131). -/
def execHashKeccak_512 (s : State) : Host.Outcome State Fault Refusal := .next (issue (execHash 3 .keccak) s)

end Sys2Proof.Machine
end

