-- ==== Sys2Proof/Machine/Permute.lean ====
section
/-! DEFINITION. The command PERMUTE (R134). -/

namespace Sys2Proof.Machine

/-- `ExecPermute()` (R134): a run of 24 ROUND steps on A starts. -/
def startPermute (s : State) : State :=
  { s with
    errcode := 0
    ctx := { s.ctx with op := .permute }
    rnd := 0
    busy := true
    phase := .round }

/-- `permute` (R86, R130, R134). -/
def execPermute (s : State) : Host.Outcome State Fault Refusal := .next (issue startPermute s)

end Sys2Proof.Machine
end

