-- ==== Sys2Proof/Machine/Dispatch.lean ====
section
/-! DEFINITION. The meaning of every command: what a host write of its word to CMD does (R130). -/

namespace Sys2Proof.Machine

def exec (i : Instr) (s : State) : Host.Outcome State Fault Refusal :=
  match i with
  | .hashSha3_224 => Sys2Proof.Machine.execHashSha3_224 s
  | .hashSha3_256 => Sys2Proof.Machine.execHashSha3_256 s
  | .hashSha3_384 => Sys2Proof.Machine.execHashSha3_384 s
  | .hashSha3_512 => Sys2Proof.Machine.execHashSha3_512 s
  | .hashKeccak_224 => Sys2Proof.Machine.execHashKeccak_224 s
  | .hashKeccak_256 => Sys2Proof.Machine.execHashKeccak_256 s
  | .hashKeccak_384 => Sys2Proof.Machine.execHashKeccak_384 s
  | .hashKeccak_512 => Sys2Proof.Machine.execHashKeccak_512 s
  | .permute => Sys2Proof.Machine.execPermute s
  | .clear => Sys2Proof.Machine.execClear s

end Sys2Proof.Machine
end

