-- ==== Sys2Proof/Machine/Format.lean ====
section
/-! DEFINITION. The digest formatter (43_digest_formatter.md): serialization, truncation and lowercase hex. -/

namespace Sys2Proof.Machine

/-- `Serialize(A)` (R160): S[8k + i] is byte i of lane k, lanes in order k = 0..24, least-significant byte first. -/
def serialize (a : Lanes) : Vector Byte 200 :=
  Vector.ofFn fun i : Fin 200 => byteOf (a.lane (i.val / 8)) (i.val % 8)

/-- `HEX(n)`, the ASCII code of a nibble (R162). -/
def hexChar (n : BitVec 4) : Byte :=
  if n ≤ 9 then 0x30 + n.setWidth 8 else 0x61 + (n.setWidth 8 - 10)

/-- Character j of the hex rendering of the bytes S: high nibble first (R162, R163). -/
def hexCharAt (S : Vector Byte 200) (j : Nat) : Byte :=
  let b : Byte := S[j / 2]?.getD 0
  if j % 2 = 0 then hexChar (b.extractLsb' 4 4) else hexChar (b.extractLsb' 0 4)

/-- `FormatHex(A, N)` (R161, R163): N/4 characters, then 0x00. -/
def formatHex (a : Lanes) (N : Nat) : Vector Byte 128 :=
  let S := serialize a
  Vector.ofFn fun j : Fin 128 => if j.val < N / 4 then hexCharAt S j.val else 0x00

end Sys2Proof.Machine
end

