-- ==== Sys2Proof/Machine/Keccak.lean ====
section
/-! DEFINITION. The Keccak-f[1600] permutation (41_permutation.md): theta, rho + pi, chi, iota, a round, and the 24
rounds. -/

namespace Sys2Proof.Machine

/-- `C[x]`, the parity of column x (R112). -/
def columnParity (a : Lanes) (x : Fin 5) : Lane :=
  a.get x 0 ^^^ a.get x 1 ^^^ a.get x 2 ^^^ a.get x 3 ^^^ a.get x 4

/-- `D[x] = C[x − 1] ^ ROTL64(C[x + 1], 1)`, indexes modulo 5 (R112). -/
def thetaD (a : Lanes) (x : Fin 5) : Lane :=
  columnParity a (x - 1) ^^^ rotl64 (columnParity a (x + 1)) 1

/-- Theta (R112). -/
def theta (a : Lanes) : Lanes := Lanes.ofFn fun x y => a.get x y ^^^ thetaD a x

/-- The traversal of R113 between two steps: the position the held lane came from, the held lane, the lanes. -/
structure Walk where
  x : Fin 5
  y : Fin 5
  cur : Lane
  lanes : Lanes

/-- Step t of the traversal (R113): the held lane goes, rotated, to (Y, 2X + 3Y mod 5), and the lane displaced there is
held next. -/
def walkStep (w : Walk) (t : Nat) : Walk :=
  let x' : Fin 5 := w.y
  let y' : Fin 5 := 2 * w.x + 3 * w.y
  { x := x'
    y := y'
    cur := w.lanes.get x' y'
    lanes := w.lanes.set x' y' (rotl64 w.cur ((t + 1) * (t + 2) / 2 % 64)) }

/-- Rho + pi in the normative traversal form (R113; 90_conflicts.md C4). -/
def rhoPi (a : Lanes) : Lanes :=
  ((List.range 24).foldl walkStep { x := 1, y := 0, cur := a.get 1 0, lanes := a }).lanes

/-- Chi (R115): every lane from the row as it was. -/
def chi (a : Lanes) : Lanes :=
  Lanes.ofFn fun x y => a.get x y ^^^ (~~~ a.get (x + 1) y &&& a.get (x + 2) y)

/-- The Round Constant Table as R117 prints it: row i holds RC[i] and RC[i + 12]. PRESUMED by the spec itself:
"[from general knowledge, not in source]" (log entry 7). -/
def roundConstantRows : List (Lane × Lane) :=
  [(0x0000000000000001, 0x000000008000808B),
   (0x0000000000008082, 0x800000000000008B),
   (0x800000000000808A, 0x8000000000008089),
   (0x8000000080008000, 0x8000000000008003),
   (0x000000000000808B, 0x8000000000008002),
   (0x0000000080000001, 0x8000000000000080),
   (0x8000000080008081, 0x000000000000800A),
   (0x8000000000008009, 0x800000008000000A),
   (0x000000000000008A, 0x8000000080008081),
   (0x0000000000000088, 0x8000000000008080),
   (0x0000000080008009, 0x0000000080000001),
   (0x000000008000000A, 0x8000000080008008)]

/-- RC[0..23], the two columns of the table one after the other (R117). -/
def roundConstants : Vector Lane 24 :=
  Vector.ofFn fun i : Fin 24 =>
    if i.val < 12 then (roundConstantRows.getD i.val (0, 0)).1 else (roundConstantRows.getD (i.val - 12) (0, 0)).2

/-- Iota (R116). -/
def iota (a : Lanes) (i : Fin 24) : Lanes := a.set 0 0 (a.get 0 0 ^^^ roundConstants[i])

/-- `Round(A, i)` (R119). -/
def keccakRound (a : Lanes) (i : Fin 24) : Lanes := iota (chi (rhoPi (theta a))) i

/-- Keccak-f[1600]: rounds 0, 1, ..., 23 (R120). -/
def keccakF (a : Lanes) : Lanes := (List.finRange 24).foldl keccakRound a

/-! ### The cross-checks the spec states beside the normative forms -/

/-- The rho offsets r[x][y] (R114), row by row. -/
def rhoOffset (x y : Fin 5) : Nat :=
  match y with
  | 0 => [0, 1, 62, 28, 27].getD x.val 0
  | 1 => [36, 44, 6, 55, 20].getD x.val 0
  | 2 => [3, 10, 43, 25, 39].getD x.val 0
  | 3 => [41, 45, 15, 21, 8].getD x.val 0
  | 4 => [18, 2, 61, 56, 14].getD x.val 0

/-- One step of the LFSR of R118. -/
def lfsrStep (r : BitVec 8) : BitVec 8 :=
  (r <<< 1) ^^^ (if r.getLsbD 7 then 0x71 else 0x00)

/-- `rc(t)`: bit 0 of the register, started at 1 and stepped t mod 255 times (R118). -/
def lfsrBit (t : Nat) : Bool := (Nat.iterate lfsrStep (t % 255) 1).getLsbD 0

/-- RC[i] by the LFSR: bit 2^j − 1 is rc(j + 7i) for j = 0..6, every other bit 0 (R118). -/
def lfsrConstant (i : Nat) : Lane :=
  (List.range 7).foldl
    (fun v j => if lfsrBit (j + 7 * i) then v ||| (1#64 <<< (2 ^ j - 1)) else v) 0

end Sys2Proof.Machine
end

