-- ==== Sys2Proof/Machine/Engine.lean ====
section
/-! DEFINITION. The engine's three steps, ABSORB, ROUND and FORMAT (42_sponge_fsm.md §5). -/

namespace Sys2Proof.Machine

/-- Lanes 0..R/8−1 of A XORed with the lanes of the block of `P` that starts at byte `base`; the capacity lanes stay
(R140). -/
def absorbBlock (P : Nat → Byte) (R base : Nat) (a : Lanes) : Lanes :=
  Lanes.ofFn fun x y =>
    if laneIndex x y < R / 8 then
      a.get x y ^^^ le64 fun b => P (base + 8 * laneIndex x y + b)
    else a.get x y

/-- `AbsorbStep()` (R140). -/
def absorbStep (s : State) : State :=
  { s with
    lanes := absorbBlock (enginePadded s) s.ctx.R.toNat (s.blk.toNat * s.ctx.R.toNat) s.lanes
    rnd := 0
    phase := .round }

/-- Where the sequencer goes after round 23 (R141): the end of a PERMUTE, the next block, or FORMAT. -/
def afterLastRound (s : State) : State :=
  if s.ctx.op = .permute then { s with phase := .idle, busy := false, done := true }
  else if s.blk.toNat + 1 < s.ctx.nblk.toNat then { s with blk := s.blk + 1, phase := .absorb }
  else { s with phase := .format }

/-- `RoundStep()` (R141). -/
def roundStep (s : State) : State :=
  let t := { s with lanes := keccakRound s.lanes s.rnd }
  if h : s.rnd.val < 23 then { t with rnd := ⟨s.rnd.val + 1, by omega⟩ } else afterLastRound t

/-- `FormatStep()` (R142). -/
def formatStep (s : State) : State :=
  { s with
    digestHex := formatHex s.lanes s.ctx.N.toNat
    result := resultWord s.ctx.nblk s.ctx.pad s.ctx.var (BitVec.ofNat 8 (s.ctx.N.toNat / 4))
    phase := .idle
    busy := false
    done := true }

/-- The engine's step, "chosen by phase alone"; with phase = IDLE it has none (R143). -/
def engineStep (s : State) : State :=
  match s.phase with
  | .idle => s
  | .absorb => absorbStep s
  | .round => roundStep s
  | .format => formatStep s

end Sys2Proof.Machine
end

