-- ==== Sys2Proof/Machine/Bus.lean ====
section
/-! DEFINITION. The host's side: `MemRead` and `MemWrite` (R60, R61) over the address map of R55, `Command(w)` (R130),
and one turn of the host, of the engine or of the reset input (R66, R200). -/

namespace Sys2Proof.Machine

/-- The constant of ID (R21). -/
def idConstant : Word := 0x4B45434316000007

/-- `MemRead(off, 8)` (R60). A STATE read while BUSY = 1 is the free value of this read (R29). -/
def memRead (s : State) (off : Nat) : Word :=
  if off % 8 ≠ 0 ∨ 0x20000 ≤ off then 0
  else if off = 0x000 then idConstant
  else if off = 0x008 then BitVec.ofNat 64 s.cap
  else if off = 0x010 then 0
  else if off = 0x018 then statusWord s
  else if off = 0x020 then s.len
  else if off = 0x028 then s.result
  else if 0x100 ≤ off ∧ off < 0x1C8 then
    if s.busy then Config.busyLane s.draws else s.lanes.lane ((off - 0x100) / 8)
  else if 0x200 ≤ off ∧ off < 0x280 then
    le64 fun b => s.digestHex[off - 0x200 + b]?.getD 0
  else if 0x10000 ≤ off ∧ off < 0x10000 + s.cap then
    le64 fun b => msgByte s (off - 0x10000 + b)
  else 0

/-- `Command(w)` (R130): ERR_BUSY before any decode; an illegal word clears DONE and is rejected; a legal one is
executed. -/
def command (w : Word) (s : State) : Host.Outcome State Fault Refusal :=
  if s.busy then .next (reject .busy s)
  else
    match decode w with
    | .error e => .next (reject (illegalCode e) { s with done := false })
    | .ok i => exec i s

/-- `MemWrite(off, 8, v)` (R61). -/
def memWrite (off : Nat) (v : Word) (s : State) : Host.Outcome State Fault Refusal :=
  if off % 8 ≠ 0 ∨ 0x20000 ≤ off then .next s
  else if off = 0x010 then command v s
  else if off = 0x020 ∨ (0x10000 ≤ off ∧ off < 0x10000 + s.cap) then
    if s.busy then .next (reject .busyWr s)
    else if off = 0x020 then .next { s with len := v }
    else .next (writeMsgWord (off - 0x10000) v s)
  else .next s

/-- A host read as a step: the answer stands on the bus, the read is counted, and nothing else changes (R62). -/
def hostRead (off : BitVec 17) (s : State) : State :=
  { s with bus := .data (memRead s off.toNat), draws := s.draws + 1 }

/-- One host transaction, atomic (R66). -/
def hostTransaction (t : Transaction) (s : State) : Host.Outcome State Fault Refusal :=
  match t with
  | .read off => .next (hostRead off s)
  | .write off v => memWrite off.toNat v { s with bus := .ack }

/-- One turn (R66, R143, R200). -/
def takeTurn (t : Turn) (s : State) : Host.Outcome State Fault Refusal :=
  match t with
  | .host tr => hostTransaction tr s
  | .engine => .next (engineStep { s with bus := .quiet })
  | .reset => .next (resetBlock { s with bus := .quiet })

/-- The turn that a host write of a command's word makes: `write CMD, w` (R28, R91). -/
def commandTurn (w : Word) : Turn := .host (.write 0x010 w)

end Sys2Proof.Machine
end

