-- ==== Sys2Proof/Machine/Step.lean ====
section
/-! DEFINITION. One step of the machine: the next turn of the schedule, or, with none scheduled, one step of the
engine (R66, R143; log entry 1). -/

namespace Sys2Proof.Machine

/-- One step. With an empty schedule the host presents nothing and the engine goes on: the weak fairness of R144. -/
def step (s : State) : Host.Outcome State Fault Refusal :=
  match s.schedule with
  | [] => takeTurn .engine s
  | t :: rest => takeTurn t { s with schedule := rest }

/-- `s` with the command word `w` as the host's very next transaction, `write CMD, w` (R28, R71: there is no
instruction memory; a command takes effect in the write that issues it). -/
def State.withFetchWord (s : State) (nbits w : Nat) : State :=
  { s with schedule := commandTurn (BitVec.ofNat 64 (w % 2 ^ nbits)) :: s.schedule }

end Sys2Proof.Machine
end

