-- ==== Sys2Proof/Machine/Script.lean ====
section
/-! DEFINITION. The host script symbols of R91 and the pseudo-instructions of R92, as the lists of transactions they
stand for. The host's own control flow (the loop of `wait_idle`) "is host software, not a block operation" (R91): a
list holds as many polls as the host makes (log entry 10). -/

namespace Sys2Proof.Machine

/-! ### Symbols (R91) -/

def symID : BitVec 17 := 0x000
def symCAP : BitVec 17 := 0x008
def symCMD : BitVec 17 := 0x010
def symSTATUS : BitVec 17 := 0x018
def symLEN : BitVec 17 := 0x020
def symRESULT : BitVec 17 := 0x028
/-- `STATE+8k`. -/
def symSTATE (k : Nat) : BitVec 17 := BitVec.ofNat 17 (0x100 + 8 * k)
/-- `HEX+8w`. -/
def symHEX (w : Nat) : BitVec 17 := BitVec.ofNat 17 (0x200 + 8 * w)
/-- `MSG+8m`. -/
def symMSG (m : Nat) : BitVec 17 := BitVec.ofNat 17 (0x10000 + 8 * m)

/-! ### Pseudo-instructions (R92) -/

/-- `cmd MNEMONIC`. -/
def scriptCmd (i : Instr) : List Transaction := [.write symCMD (encode i)]

/-- `wait_idle`, with the number of polls the host makes. -/
def scriptWaitIdle (polls : Nat) : List Transaction := List.replicate polls (.read symSTATUS)

/-- The condition `s[0] == 1` under which `wait_idle` polls again. -/
def pollsAgain (status : Word) : Bool := status.getLsbD 0

/-- Word m of the message bytes, "with bytes past L written as 0x00". -/
def messageWord (M : List Byte) (m : Nat) : Word := le64 fun b => M.getD (8 * m + b) 0x00

/-- `load_msg BYTES`: the words 0 .. ceil(L/8)−1, then LEN. -/
def scriptLoadMsg (M : List Byte) : List Transaction :=
  (List.range ((M.length + 7) / 8)).map (fun m => .write (symMSG m) (messageWord M m))
    ++ [.write symLEN (BitVec.ofNat 64 M.length)]

/-- `hash NAME, BYTES`. -/
def scriptHash (i : Instr) (M : List Byte) (polls : Nat) : List Transaction :=
  scriptLoadMsg M ++ scriptCmd i ++ scriptWaitIdle polls

/-- `read_hex`: RESULT, then the HEX words that hold its r[7:0] characters, for the r that the host read. -/
def scriptReadHex (r : Word) : List Transaction :=
  .read symRESULT ::
    (List.range (((resultHexlen r).toNat + 7) / 8)).map (fun w => .read (symHEX w))

/-- The string S of `read_hex`, from the words read. -/
def hexString (r : Word) (words : List Word) : List Byte :=
  (words.flatMap fun h => (List.range 8).map (byteOf h)).take (resultHexlen r).toNat

/-- `read_state`. -/
def scriptReadState : List Transaction := (List.range 25).map (fun k => .read (symSTATE k))

end Sys2Proof.Machine
end

