-- ==== Sys2Proof/Machine/Sponge.lean ====
section
/-! DEFINITION. The closed form of a HASH that R132 states: the padded message as a list (R100 to R104) and
SpongeAbsorb. The engine does not use it; the statements about whole runs do. -/

namespace Sys2Proof.Machine

/-- `Pad(L, R, d)`: the q padding bytes (R100 to R102). -/
def padBytes (L R : Nat) (d : Byte) : List Byte :=
  let q := padLength L R
  if q = 1 then [d ||| 0x80] else [d] ++ List.replicate (q - 2) 0x00 ++ [0x80]

/-- The padded message `M ++ Pad(L, R, d)` (R132). -/
def paddedMessage (M : List Byte) (R : Nat) (d : Byte) : List Byte := M ++ padBytes M.length R d

/-- `SpongeAbsorb(M, R, d)` (R132): for each block, XOR its lanes into A, then Keccak-f[1600] once. -/
def spongeAbsorb (M : List Byte) (R : Nat) (d : Byte) : Lanes :=
  let P := paddedMessage M R d
  (List.range (blockCount M.length R)).foldl
    (fun a b => keccakF (absorbBlock (fun i => P.getD i 0) R (b * R) a)) Lanes.zero

/-- MSG[0..L−1] as a list. -/
def messageOf (s : State) (L : Nat) : List Byte := (List.range L).map (msgByte s)

end Sys2Proof.Machine
end

