-- ==== Sys2Proof/Safety.lean ====
section
/-! DEFINITION. What holds of every state that a run reaches (the invariant), what a run is, and which part of the
state the host's transactions cannot touch during a run. -/

namespace Sys2Proof.Machine

/-- R165: the codes '0' to '9' and 'a' to 'f'. -/
def isLowerHex (b : Byte) : Bool :=
  (decide (0x30 ≤ b) && decide (b ≤ 0x39)) || (decide (0x61 ≤ b) && decide (b ≤ 0x66))

/-- The run context and the block index of a HASH run (R31, R32, R104, R170, R171). -/
structure HashRunOk (s : State) : Prop where
  op_hash : s.ctx.op = .hash
  pad_legal : s.ctx.pad.toNat ≤ 1
  rate : s.ctx.R = rateBytes s.ctx.var
  output : s.ctx.N = outputBits s.ctx.var
  domain : s.ctx.d = if s.ctx.pad = 0 then 0x06 else 0x01
  length_fits : s.ctx.L.toNat ≤ s.cap
  blocks : s.ctx.nblk.toNat = blockCount s.ctx.L.toNat s.ctx.R.toNat
  block_index : s.blk.toNat < s.ctx.nblk.toNat

/-- What the sequencer's phase says of the run (R31, R140 to R142): ABSORB and FORMAT are steps of a HASH run, and FORMAT
comes after round 23 of the last block. -/
def RunOk (s : State) : Prop :=
  match s.phase with
  | .idle => True
  | .absorb => HashRunOk s
  | .round => s.ctx.op = .permute ∨ HashRunOk s
  | .format => HashRunOk s ∧ s.blk.toNat + 1 = s.ctx.nblk.toNat ∧ s.rnd = 23

/-- RESULT (R25): 0 after CLEAR or reset, or what a completed HASH wrote; its reserved bits read 0. -/
def ResultOk (r : Word) : Prop :=
  r = 0 ∨
    (r = resultWord (resultNblk r) (resultPad r) (resultVariant r) (resultHexlen r) ∧
      (resultPad r).toNat ≤ 1 ∧ 1 ≤ (resultNblk r).toNat ∧
      (resultHexlen r).toNat = (outputBits (resultVariant r)).toNat / 4)

/-- DIGEST_HEX (R26, R165): HEXLEN lowercase hex characters, then zeros. -/
def DigestOk (s : State) : Prop :=
  ∀ j : Fin 128,
    (j.val < (resultHexlen s.result).toNat → isLowerHex s.digestHex[j] = true) ∧
    ((resultHexlen s.result).toNat ≤ j.val → s.digestHex[j] = 0x00)

/-- The invariant of the block. -/
structure Inv (s : State) : Prop where
  /-- R7. -/
  cap_legal : legalMsgCap s.cap = true
  /-- R27: MSG is in canonical form and inside its capacity. -/
  msg_wf : Memory.wf s.cap s.msg = true
  /-- R30. -/
  busy_iff : s.busy = true ↔ s.phase ≠ .idle
  /-- R30. -/
  not_busy_and_done : ¬(s.busy = true ∧ s.done = true)
  /-- R180: codes 6 to 15 are never produced. -/
  errcode_legal : s.errcode.toNat ≤ 5
  run_ok : RunOk s
  result_ok : ResultOk s.result
  digest_ok : DigestOk s

/-- n steps of the engine alone. -/
def engineSteps : Nat → State → State
  | 0, s => s
  | n + 1, s => engineSteps n (engineStep s)

/-- How many engine steps the run in progress still takes (R144): 25 for a block (ABSORB and 24 rounds), one FORMAT. -/
def engineStepsLeft (s : State) : Nat :=
  match s.phase with
  | .idle => 0
  | .absorb => 25 * (s.ctx.nblk.toNat - s.blk.toNat) + 1
  | .round =>
    (24 - s.rnd.val) +
      (if s.ctx.op = .permute then 0 else 25 * (s.ctx.nblk.toNat - (s.blk.toNat + 1)) + 1)
  | .format => 1

/-- The state without what a host transaction may touch during a run: ERRCODE (R183) and the model's own side of the
host (the bus outputs, the read counter, the schedule). -/
def State.runView (s : State) : State :=
  { s with errcode := 0, bus := .quiet, draws := 0, schedule := [] }

/-- The turn is a host write of `w` to CMD (R28). -/
def isCommandWrite : Turn → Bool
  | .host (.write off _) => off == 0x010
  | _ => false

/-- The turn is a host write to LEN or to a word of MSG (R61). -/
def isDataWrite (cap : Nat) : Turn → Bool
  | .host (.write off _) =>
    decide (off.toNat % 8 = 0) &&
      (off == 0x020 || (decide (0x10000 ≤ off.toNat) && decide (off.toNat < 0x10000 + cap)))
  | _ => false

/-- The turn that `step` takes. -/
def nextTurn (s : State) : Turn := s.schedule.headD .engine

end Sys2Proof.Machine
end

