-- ==== Sys2Proof/Certificates/Slice0/Obligations.lean ====
section
/-! DEFINITION. The statements for the provers, from the numbered rules of spec/. Each one's docstring names the rule
it formalises; a clause that rests on a choice of the model names the log entry. -/

namespace Sys2Proof.Spec

open Sys2Proof.Machine

/-- One HASH row of the tables of R86, R170 and R171, as the spec prints it. -/
structure HashRow where
  instr : Instr
  word : Word
  var : BitVec 2
  pad : BitVec 2
  /-- R in bytes. -/
  rate : Nat
  /-- N in bits. -/
  bits : Nat
  /-- The domain byte d. -/
  dom : Byte

/-- The eight HASH rows (R86, R170, R171). -/
def hashRows : List HashRow := [
  ⟨.hashSha3_224, 0x0000000000000001, 0, 0, 144, 224, 0x06⟩,
  ⟨.hashSha3_256, 0x0000000000000011, 1, 0, 136, 256, 0x06⟩,
  ⟨.hashSha3_384, 0x0000000000000021, 2, 0, 104, 384, 0x06⟩,
  ⟨.hashSha3_512, 0x0000000000000031, 3, 0, 72, 512, 0x06⟩,
  ⟨.hashKeccak_224, 0x0000000000000101, 0, 1, 144, 224, 0x01⟩,
  ⟨.hashKeccak_256, 0x0000000000000111, 1, 1, 136, 256, 0x01⟩,
  ⟨.hashKeccak_384, 0x0000000000000121, 2, 1, 104, 384, 0x01⟩,
  ⟨.hashKeccak_512, 0x0000000000000131, 3, 1, 72, 512, 0x01⟩]

/-- The ten rows of R86: command and word. -/
def commandTable : List (Instr × Word) :=
  hashRows.map (fun r => (r.instr, r.word)) ++
    [(.permute, 0x0000000000000002), (.clear, 0x0000000000000003)]

/-- The state in which the run of an accepted HASH begins (R131 with R130, R170, R171 and R104). -/
def hashStarted (r : HashRow) (s : State) : State :=
  { s with
    done := false
    errcode := 0
    busy := true
    phase := .absorb
    blk := 0
    lanes := Lanes.zero
    ctx :=
      { op := .hash
        var := r.var
        pad := r.pad
        R := BitVec.ofNat 8 r.rate
        N := BitVec.ofNat 10 r.bits
        d := r.dom
        L := s.len
        nblk := BitVec.ofNat 32 (s.len.toNat / r.rate + 1) } }

/-- The state in which the run of an accepted PERMUTE begins (R134 with R130). -/
def permuteStarted (s : State) : State :=
  { s with
    done := false
    errcode := 0
    busy := true
    phase := .round
    rnd := 0
    ctx := { s.ctx with op := .permute } }

/-- The state that CLEAR leaves (R135 with R130). -/
def cleared (s : State) : State :=
  { s with
    done := false
    errcode := 0
    lanes := Lanes.zero
    result := 0
    digestHex := Vector.replicate 128 0 }

/-- The word has the shape of a HASH word (R87): OP = 1 and both reserved fields 0. -/
def hashShaped (w : Word) : Prop :=
  w.extractLsb' 0 4 = 1 ∧ w.extractLsb' 6 2 = 0 ∧ w.extractLsb' 10 54 = 0

/-- The offset reads as unmapped in the map of R55. -/
def unmapped (cap off : Nat) : Prop :=
  (0x30 ≤ off ∧ off < 0x100) ∨ (0x1C8 ≤ off ∧ off < 0x200) ∨ (0x280 ≤ off ∧ off < 0x10000) ∨
    0x10000 + cap ≤ off

/-- The offset belongs to a read-only register of the map of R55. -/
def readOnly (off : Nat) : Prop :=
  off = 0x000 ∨ off = 0x008 ∨ off = 0x018 ∨ off = 0x028 ∨ (0x100 ≤ off ∧ off < 0x1C8) ∨
    (0x200 ≤ off ∧ off < 0x280)

/-- `n` steps of the machine (`step`, with the schedule that the state holds). -/
abbrev run (n : Nat) (s : State) : Host.Outcome State Fault Refusal := Host.Core.run Sys2Proof.core n s

end Sys2Proof.Spec

open Sys2Proof Sys2Proof.Machine Sys2Proof.Spec

/-! ### Encoding -/

/-- Sanity (R86): the ten words, as the table prints them, decode to their commands, and the commands encode to them. -/
def Obligations.TableWordsAreTheirCommands : Prop :=
  ∀ p ∈ ([(.hashSha3_224, 0x001), (.hashSha3_256, 0x011), (.hashSha3_384, 0x021),
      (.hashSha3_512, 0x031), (.hashKeccak_224, 0x101), (.hashKeccak_256, 0x111),
      (.hashKeccak_384, 0x121), (.hashKeccak_512, 0x131), (.permute, 0x002), (.clear, 0x003)] :
        List (Instr × Nat)),
    decodeTableWord 64 p.2 = some p.1 ∧ encode p.1 = BitVec.ofNat 64 p.2

/-- R86: the ten words are the only legal ones, and the eight HASH rows together are match 0x1 under mask
0xFFFFFFFFFFFFFCCF with PAD in 0, 1. -/
def Obligations.OnlyTheTenTableWordsAreLegal : Prop :=
  (∀ (w : Word) (i : Instr), decode w = .ok i ↔ (i, w) ∈ commandTable) ∧
  (∀ w : Word, (∃ r ∈ hashRows, decode w = .ok r.instr) ↔
    (w &&& 0xFFFFFFFFFFFFFCCF = 0x1 ∧ (w.extractLsb' 8 2 = 0 ∨ w.extractLsb' 8 2 = 1)))

/-- R82, R87: decoding and encoding agree both ways, every command is well formed, and the fields of its word are those
of the table. -/
def Obligations.DecodeAndEncodeAgree : Prop :=
  (∀ i : Instr, i.wellFormed = true ∧ decode (encode i) = .ok i ∧ fieldsOf (encode i) = i.fields) ∧
  (∀ (w : Word) (i : Instr), decode w = .ok i → encode i = w)

/-- R88: which words are illegal, with which code, and that a CMD write of one while BUSY = 0 is rejected. -/
def Obligations.IllegalWordsAreRejectedByShape : Prop :=
  (∀ w : Word, decode w = .error .pad ↔
    hashShaped w ∧ (w.extractLsb' 8 2 = 2 ∨ w.extractLsb' 8 2 = 3)) ∧
  (∀ w : Word, decode w = .error .cmd ↔
    ((w.extractLsb' 0 4 ≠ 1 ∧ w.extractLsb' 0 4 ≠ 2 ∧ w.extractLsb' 0 4 ≠ 3) ∨
     (w.extractLsb' 0 4 = 1 ∧ (w.extractLsb' 6 2 ≠ 0 ∨ w.extractLsb' 10 54 ≠ 0)) ∨
     ((w.extractLsb' 0 4 = 2 ∨ w.extractLsb' 0 4 = 3) ∧ w.extractLsb' 4 60 ≠ 0))) ∧
  (∀ (s : State) (w : Word), s.busy = false →
    (decode w = .error .cmd → memWrite 0x010 w s = .next { s with done := false, errcode := 1 }) ∧
    (decode w = .error .pad → memWrite 0x010 w s = .next { s with done := false, errcode := 2 }))

/-! ### The step and the bus -/

/-- R66, R143: which turn a step takes, and what each turn is. The schedule, the bus outputs and the rule for an empty
schedule are the model's (log entries 1, 6). -/
def Obligations.StepTakesTheNextTurn : Prop :=
  ∀ (s : State) (rest : List Turn),
    (∀ off : BitVec 17, s.schedule = .host (.read off) :: rest →
      step s = .next { s with schedule := rest, bus := .data (memRead s off.toNat), draws := s.draws + 1 }) ∧
    (∀ (off : BitVec 17) (v : Word), s.schedule = .host (.write off v) :: rest →
      step s = memWrite off.toNat v { s with schedule := rest, bus := .ack }) ∧
    (s.schedule = .engine :: rest → step s = .next (engineStep { s with schedule := rest, bus := .quiet })) ∧
    (s.schedule = .reset :: rest → step s = .next (resetBlock { s with schedule := rest, bus := .quiet })) ∧
    (s.schedule = [] → step s = .next (engineStep { s with bus := .quiet }))

/-- R130, R28, R71: where the host's next transaction writes to CMD a word that decodes to i, the step is exec of i,
after the schedule has moved on and the bus has acknowledged. -/
def Obligations.StepRunsTheDecodedCommand : Prop :=
  ∀ (s : State) (rest : List Turn) (w : Word) (i : Instr), decode w = .ok i →
    (s.schedule = .host (.write 0x010 w) :: rest →
      step s = exec i { s with schedule := rest, bus := .ack }) ∧
    step (s.withFetchWord 64 w.toNat) = exec i { s with bus := .ack }

/-- R60: the answer of `MemRead` at every offset of the map of R55. The value of a STATE read while BUSY = 1 is the free
value `Config.busyLane` (log entry 5), whatever it is; an unwritten MSG byte is its power-on draw (log entry 4). -/
def Obligations.ReadAnswersByTheAddressMap : Prop :=
  ∀ s : State, legalMsgCap s.cap = true →
    memRead s 0x000 = 0x4B45434316000007 ∧
    memRead s 0x008 = BitVec.ofNat 64 s.cap ∧
    memRead s 0x010 = 0 ∧
    memRead s 0x018 = statusWord s ∧
    memRead s 0x020 = s.len ∧
    memRead s 0x028 = s.result ∧
    (∀ x y : Fin 5, memRead s (0x100 + 8 * (x.val + 5 * y.val)) =
      if s.busy then Config.busyLane s.draws else s.lanes.get x y) ∧
    (∀ (w : Fin 16) (i : Fin 8), byteOf (memRead s (0x200 + 8 * w.val)) i.val = s.digestHex[8 * w.val + i.val]) ∧
    (∀ (m : Nat) (i : Fin 8), 8 * m < s.cap →
      byteOf (memRead s (0x10000 + 8 * m)) i.val = msgByte s (8 * m + i.val)) ∧
    (∀ off : Nat, off % 8 ≠ 0 ∨ unmapped s.cap off → memRead s off = 0)

/-- R62, R29: a read as a step changes nothing of the block; read again, every offset answers the same, but for the STATE
window while BUSY = 1, where the next read is a fresh draw. (The read counter and the bus outputs are the model's: log
entries 5, 6.) -/
def Obligations.ReadsHaveNoSideEffects : Prop :=
  ∀ (s : State) (off : BitVec 17) (rest : List Turn), s.schedule = .host (.read off) :: rest →
    ∃ t : State, step s = .next t ∧
      t = { s with bus := t.bus, draws := t.draws, schedule := t.schedule } ∧
      (∀ off' : Nat, ¬(s.busy = true ∧ 0x100 ≤ off' ∧ off' < 0x1C8) → memRead t off' = memRead s off') ∧
      (∀ k : Fin 25, s.busy = true →
        memRead s (0x100 + 8 * k.val) = Config.busyLane s.draws ∧
        memRead t (0x100 + 8 * k.val) = Config.busyLane (s.draws + 1))

/-- R61: the effect of `MemWrite` at every offset. -/
def Obligations.WriteEffectsByOffset : Prop :=
  ∀ (s : State) (v : Word), legalMsgCap s.cap = true →
    memWrite 0x010 v s = command v s ∧
    (s.busy = true → memWrite 0x020 v s = .next { s with errcode := 5 }) ∧
    (s.busy = false → memWrite 0x020 v s = .next { s with len := v }) ∧
    (∀ m : Nat, 8 * m < s.cap → s.busy = true → memWrite (0x10000 + 8 * m) v s = .next { s with errcode := 5 }) ∧
    (∀ m : Nat, 8 * m < s.cap → s.busy = false →
      ∃ t : State, memWrite (0x10000 + 8 * m) v s = .next t ∧ t = { s with msg := t.msg } ∧
        (∀ b : Fin 8, msgByte t (8 * m + b.val) = byteOf v b.val) ∧
        (∀ i : Nat, (i < 8 * m ∨ 8 * m + 8 ≤ i) → msgByte t i = msgByte s i)) ∧
    (∀ off : Nat, off % 8 ≠ 0 ∨ 0x20000 ≤ off ∨ readOnly off ∨ unmapped s.cap off → memWrite off v s = .next s)

/-- R53, R57, R64: a misaligned or an unmapped access reads 0 and writes nothing, a write to a read-only register is
ignored, and none of them records an error, whatever the value of BUSY. -/
def Obligations.InertAccessesRecordNoError : Prop :=
  ∀ (s : State) (off : Nat) (v : Word),
    (off % 8 ≠ 0 → memRead s off = 0 ∧ memWrite off v s = .next s) ∧
    (unmapped s.cap off → memRead s off = 0 ∧ memWrite off v s = .next s) ∧
    (readOnly off → memWrite off v s = .next s)

/-- R27, R51, R206: a word written to MSG while idle is read back by the very next transaction, whole and at its own
offset, and every other word reads as before. -/
def Obligations.MsgWordReadsBack : Prop :=
  ∀ (s : State) (m : Nat) (v : Word) (rest : List Turn), legalMsgCap s.cap = true → 8 * m < s.cap → s.busy = false →
    s.schedule = .host (.write (symMSG m) v) :: .host (.read (symMSG m)) :: rest →
    ∃ t : State, run 2 s = .next t ∧ t.bus = .data v ∧
      (∀ m' : Nat, m' ≠ m → memRead t (0x10000 + 8 * m') = memRead s (0x10000 + 8 * m'))

/-- R23: the STATUS word's fields and its reserved bits. -/
def Obligations.StatusWordLayout : Prop :=
  ∀ s : State,
    (statusWord s).getLsbD 0 = s.busy ∧ (statusWord s).getLsbD 1 = s.done ∧
    (statusWord s).extractLsb' 2 2 = 0 ∧ (statusWord s).extractLsb' 4 4 = s.errcode ∧
    (statusWord s).extractLsb' 8 56 = 0 ∧
    busyOut s = s.busy ∧ doneOut s = s.done ∧ (errOut s = true ↔ s.errcode ≠ 0)

/-! ### Commands -/

/-- R130: `Command(w)`: while BUSY = 1 the code 4 and nothing else; idle, DONE is cleared by every word, an illegal
word is rejected with its code, and a legal one is executed. -/
def Obligations.CommandWriteByCases : Prop :=
  ∀ (s : State) (w : Word),
    (s.busy = true → command w s = .next { s with errcode := 4 }) ∧
    (s.busy = false → ∀ e : Illegal, decode w = .error e →
      command w s = .next { s with done := false, errcode := if e = .cmd then 1 else 2 }) ∧
    (s.busy = false → ∀ i : Instr, decode w = .ok i → command w s = exec i s) ∧
    (s.busy = false → ∃ t : State, command w s = .next t ∧ t.done = false)

/-- R185: the one code that a CMD write reports, by the order of the checks, and that a reset overrides every code. -/
def Obligations.OneCodeByPriority : Prop :=
  (∀ (s : State) (rest : List Turn), s.schedule = .reset :: rest → ∃ t : State, step s = .next t ∧ t.errcode = 0) ∧
  ∀ (s : State) (w : Word), ∃ t : State, memWrite 0x010 w s = .next t ∧
    (s.busy = true → t.errcode = 4) ∧
    (s.busy = false → ¬hashShaped w → w ≠ 2 → w ≠ 3 → t.errcode = 1) ∧
    (s.busy = false → hashShaped w → 2 ≤ (w.extractLsb' 8 2).toNat → t.errcode = 2) ∧
    (s.busy = false → hashShaped w → (w.extractLsb' 8 2).toNat ≤ 1 → s.cap < s.len.toNat → t.errcode = 3) ∧
    (s.busy = false → hashShaped w → (w.extractLsb' 8 2).toNat ≤ 1 → s.len.toNat ≤ s.cap → t.errcode = 0) ∧
    (s.busy = false → w = 2 ∨ w = 3 → t.errcode = 0)

/-- R181: a CMD write while BUSY = 0 that reports a code changes STATUS.ERRCODE and STATUS.DONE and nothing else. -/
def Obligations.RejectionIsPrecise : Prop :=
  ∀ (s t : State) (w : Word), s.busy = false → memWrite 0x010 w s = .next t → t.errcode ≠ 0 →
    t = { s with done := false, errcode := t.errcode }

/-- R131, R182: a HASH while idle starts its run, or is rejected with code 3 when LEN > MSG_CAP, unsigned, with LEN =
MSG_CAP accepted; a LEN written later changes no step of the engine. The accepted case is the completion of the eight
HASH commands: exec answers this whole next state. That it keeps rnd, which R131 does not name, is DEDUCED (log entry
11), and so is the block count cut to 32 bits (log entry 14). -/
def Obligations.HashStartsUnlessLenExceedsCapacity : Prop :=
  (∀ r ∈ hashRows, ∀ s : State, s.busy = false →
    (s.len.toNat ≤ s.cap → exec r.instr s = .next (hashStarted r s)) ∧
    (s.cap < s.len.toNat → exec r.instr s = .next { s with done := false, errcode := 3 })) ∧
  (∀ (s : State) (v : Word), engineStep { s with len := v } = { engineStep s with len := v })

/-- R131, R32, R104 (the spec marks R104 as its own inference: "[derived: from rules R100 to R102]"): the block count
that an accepted HASH latches is L div R + 1, with no bit lost in its 32 bits (log entry 14), under a legal MSG_CAP.
-/
def Obligations.LatchedBlockCountIsExact : Prop :=
  ∀ r ∈ hashRows, ∀ s : State, legalMsgCap s.cap = true → s.busy = false → s.len.toNat ≤ s.cap →
    ∃ t : State, exec r.instr s = .next t ∧
      t.ctx.nblk.toNat = s.len.toNat / r.rate + 1 ∧
      t.ctx.nblk.toNat * r.rate = s.len.toNat + (r.rate - s.len.toNat % r.rate)

/-- R134, the write itself: PERMUTE while idle starts its run, whatever LEN holds; this is its completion. That it
keeps blk and the run context but op, which R134 does not name, is DEDUCED (log entry 11). -/
def Obligations.PermuteStarts : Prop :=
  ∀ s : State, s.busy = false → exec .permute s = .next (permuteStarted s)

/-- R135: CLEAR completes within the write; it is idempotent; while BUSY = 1 it only records code 4; a CLEAR word with
a bit in [63:4] is rejected with code 1. That it keeps the sequencer and the run context, which R135 does not name, is
DEDUCED (log entry 11). -/
def Obligations.ClearZeroesWithinTheWrite : Prop :=
  (∀ s : State, s.busy = false → exec .clear s = .next (cleared s)) ∧
  (∀ s : State, s.busy = false → exec .clear (cleared s) = .next (cleared s)) ∧
  (∀ s : State, s.busy = true → exec .clear s = .next { s with errcode := 4 }) ∧
  (∀ (s : State) (w : Word), s.busy = false → w.extractLsb' 0 4 = 3 → w.extractLsb' 4 60 ≠ 0 →
    memWrite 0x010 w s = .next { s with done := false, errcode := 1 })

/-- R183: the busy rejections, the writes that are still ignored, and the reads that are never rejected. -/
def Obligations.BusyRejections : Prop :=
  ∀ s : State, s.busy = true → legalMsgCap s.cap = true →
    (∀ w : Word, memWrite 0x010 w s = .next { s with errcode := 4 }) ∧
    (∀ i : Instr, exec i s = .next { s with errcode := 4 }) ∧
    (∀ v : Word, memWrite 0x020 v s = .next { s with errcode := 5 }) ∧
    (∀ (m : Nat) (v : Word), 8 * m < s.cap → memWrite (0x10000 + 8 * m) v s = .next { s with errcode := 5 }) ∧
    (∀ (off : Nat) (v : Word), readOnly off ∨ unmapped s.cap off → memWrite off v s = .next s) ∧
    (∀ (off : BitVec 17) (rest : List Turn), s.schedule = .host (.read off) :: rest →
      ∃ t : State, step s = .next t ∧ t.errcode = s.errcode ∧ t.busy = true ∧ t.done = s.done)

/-- R184: ERRCODE after a step: a rejection's code, 0 after an accepted command or a reset, else what it was; engine
steps and reads never change it. -/
def Obligations.ErrcodeChangesOnlyByHostOrReset : Prop :=
  (∀ s t : State, step s = .next t → t.errcode ≠ s.errcode →
    (nextTurn s = .reset ∧ t.errcode = 0) ∨
    isCommandWrite (nextTurn s) = true ∨
    (isDataWrite s.cap (nextTurn s) = true ∧ s.busy = true ∧ t.errcode = 5)) ∧
  (∀ s : State, (engineStep s).errcode = s.errcode) ∧
  (∀ s : State, (resetBlock s).errcode = 0) ∧
  (∀ (s t : State) (i : Instr), s.busy = false → exec i s = .next t → t.errcode = 0 ∨ (t.errcode = 3 ∧ s.cap < s.len.toNat))

/-- The frame of all ten commands (R131, R134, R135, R181): no command writes MSG, LEN, MSG_CAP or the model's own
fields; only CLEAR writes RESULT and DIGEST_HEX; PERMUTE leaves A to its run; CLEAR leaves the sequencer and the run
context. That a field of the sequencer or of the run context which a rule does not name is kept is DEDUCED (log entry
11). -/
def Obligations.CommandFrames : Prop :=
  ∀ (i : Instr) (s t : State), exec i s = .next t →
    (∀ k : Nat, msgByte t k = msgByte s k) ∧ t.msg = s.msg ∧ t.len = s.len ∧ t.cap = s.cap ∧
    t.msgDraw = s.msgDraw ∧ t.draws = s.draws ∧ t.schedule = s.schedule ∧ t.bus = s.bus ∧
    (i ≠ .clear → t.result = s.result ∧ t.digestHex = s.digestHex) ∧
    (i = .permute → t.lanes = s.lanes ∧ t.blk = s.blk ∧ t.ctx = { s.ctx with op := t.ctx.op }) ∧
    (i = .clear → t.phase = s.phase ∧ t.rnd = s.rnd ∧ t.blk = s.blk ∧ t.ctx = s.ctx ∧ t.busy = s.busy) ∧
    (i ≠ .permute → t.rnd = s.rnd)

/-! ### The permutation -/

/-- R111: ROTL64 bit by bit, and the identity for n mod 64 = 0. -/
def Obligations.RotlMovesBitsLeft : Prop :=
  ∀ (v : Lane) (n : Nat),
    (n % 64 = 0 → rotl64 v n = v) ∧
    (n % 64 ≠ 0 → rotl64 v n = (v <<< (n % 64)) ||| (v >>> (64 - n % 64))) ∧
    (∀ i : Nat, i < 64 → (rotl64 v n).getLsbD i = v.getLsbD ((i + (64 - n % 64)) % 64))

/-- R112: theta, with the column parities written out; an input whose columns all have even parity is unchanged. -/
def Obligations.ThetaAddsColumnParities : Prop :=
  (∀ (a : Lanes) (x y : Fin 5), (theta a).get x y =
    a.get x y ^^^
      ((a.get (x + 4) 0 ^^^ a.get (x + 4) 1 ^^^ a.get (x + 4) 2 ^^^ a.get (x + 4) 3 ^^^ a.get (x + 4) 4) ^^^
        rotl64 (a.get (x + 1) 0 ^^^ a.get (x + 1) 1 ^^^ a.get (x + 1) 2 ^^^ a.get (x + 1) 3 ^^^ a.get (x + 1) 4) 1)) ∧
  (∀ a : Lanes, (∀ x : Fin 5, a.get x 0 ^^^ a.get x 1 ^^^ a.get x 2 ^^^ a.get x 3 ^^^ a.get x 4 = 0) → theta a = a)

/-- R113 in the table form of R114, the spec's own inference ("[derived: from rule R113, ...]"): the traversal form of
R113 equals the table form, with the printed offsets; position t of the printed traversal order has offset
(t+1)(t+2)/2 mod 64. -/
def Obligations.RhoPiTraversalEqualsTable : Prop :=
  (∀ (a : Lanes) (x y : Fin 5), (rhoPi a).get y (2 * x + 3 * y) = rotl64 (a.get x y) (rhoOffset x y)) ∧
  (∀ t : Fin 24,
    let order : List (Fin 5 × Fin 5) :=
      [(1, 0), (0, 2), (2, 1), (1, 2), (2, 3), (3, 3), (3, 0), (0, 1), (1, 3), (3, 1), (1, 4), (4, 4),
       (4, 0), (0, 3), (3, 4), (4, 3), (3, 2), (2, 2), (2, 0), (0, 4), (4, 2), (2, 4), (4, 1), (1, 1)]
    let p := order.getD t.val (0, 0)
    rhoOffset p.1 p.2 = (t.val + 1) * (t.val + 2) / 2 % 64) ∧
  (∀ y x : Fin 5, rhoOffset x y =
    ([[0, 1, 62, 28, 27], [36, 44, 6, 55, 20], [3, 10, 43, 25, 39], [41, 45, 15, 21, 8],
      [18, 2, 61, 56, 14]].getD y.val []).getD x.val 0)

/-- R115: chi, with every lane of a row from the row as it was; a row of zeros and a row of ones are unchanged. -/
def Obligations.ChiMixesEachRowAlone : Prop :=
  (∀ (a : Lanes) (x y : Fin 5), (chi a).get x y =
    a.get x y ^^^ ((a.get (x + 1) y ^^^ 0xFFFFFFFFFFFFFFFF) &&& a.get (x + 2) y)) ∧
  (∀ (a : Lanes) (y : Fin 5),
    ((∀ x : Fin 5, a.get x y = 0) → ∀ x : Fin 5, (chi a).get x y = 0) ∧
    ((∀ x : Fin 5, a.get x y = 0xFFFFFFFFFFFFFFFF) → ∀ x : Fin 5, (chi a).get x y = 0xFFFFFFFFFFFFFFFF))

/-- R116: iota changes lane (0, 0) alone, by RC[i]. The values of RC are PRESUMED by the spec (log entry 7); none is used
here. -/
def Obligations.IotaChangesOneLane : Prop :=
  ∀ (a : Lanes) (i : Fin 24),
    (iota a i).get 0 0 = a.get 0 0 ^^^ roundConstants[i] ∧
    (∀ x y : Fin 5, (x, y) ≠ (0, 0) → (iota a i).get x y = a.get x y)

/-- R118, the spec's cross-check of R117: the table of round constants equals the LFSR's output. Both are marked general
knowledge by the spec (log entry 7). -/
def Obligations.RoundConstantsEqualTheLfsr : Prop :=
  ∀ i : Fin 24, roundConstants[i] = lfsrConstant i.val

/-- R119, R120 and the vectors of 95_test_vectors.md §2.3: a round is the four steps in order, the permutation is rounds
0 to 23 in order, and the first two rounds of the zero state (their values rest on RC[0] and RC[1], log entry 7). -/
def Obligations.RoundsInOrder : Prop :=
  (∀ (a : Lanes) (i : Fin 24), keccakRound a i = iota (chi (rhoPi (theta a))) i) ∧
  (∀ a : Lanes, keccakF a = (List.range 24).foldl (fun b i => keccakRound b (Fin.ofNat 24 i)) a) ∧
  keccakRound Lanes.zero 0 = Lanes.zero.set 0 0 0x0000000000000001 ∧
  keccakRound (keccakRound Lanes.zero 0) 1 =
    ⟨⟨0x8083, 0x0000100000000000, 0x8000, 0x1, 0x0000100000008000⟩,
     ⟨0, 0x0000200000200000, 0, 0x0000200000000000, 0x200000⟩,
     ⟨0x2, 0x200, 0, 0x202, 0⟩,
     ⟨0x10000400, 0, 0x400, 0x10000000, 0⟩,
     ⟨0x0000010000000000, 0, 0x0000010000000004, 0, 0x4⟩⟩

/-! ### Padding -/

/-- R100: q is in [1, R], with the three corner cases. -/
def Obligations.PadLengthIsBetweenOneAndRate : Prop :=
  ∀ L R : Nat, 0 < R →
    padLength L R = R - L % R ∧ 1 ≤ padLength L R ∧ padLength L R ≤ R ∧
    (L % R = 0 → padLength L R = R) ∧ (L % R = R - 1 → padLength L R = 1)

/-- R101 to R104: the padded message as a list has the padding of R101 and R102, is an exact multiple of R long, ends in
0x80, 0x81 or 0x86, and is what the function P of R103 reads; P reads no message byte at an index ≥ L. -/
def Obligations.PaddedFunctionReadsThePaddedMessage : Prop :=
  ∀ (M : List Byte) (R : Nat) (d : Byte), 0 < R → (d = 0x06 ∨ d = 0x01) →
    (padLength M.length R = 1 → padBytes M.length R d = [d ||| 0x80]) ∧
    (2 ≤ padLength M.length R →
      padBytes M.length R d = [d] ++ List.replicate (padLength M.length R - 2) 0x00 ++ [0x80]) ∧
    (paddedMessage M R d).length = (M.length / R + 1) * R ∧
    ((paddedMessage M R d).getLast? = some 0x80 ∨ (paddedMessage M R d).getLast? = some 0x81 ∨
      (paddedMessage M R d).getLast? = some 0x86) ∧
    (∀ msg : Nat → Byte, (∀ j : Nat, j < M.length → msg j = M.getD j 0) →
      ∀ i : Nat, i < (M.length / R + 1) * R →
        paddedByte msg M.length ((M.length / R + 1) * R - M.length) d i = (paddedMessage M R d).getD i 0)

/-- R101 to R103, as R105 infers from them ("[derived: from rules R101 to R103]"): for the same message and rate the
two paddings differ in exactly one byte, at index L. -/
def Obligations.PaddingsDifferInOneByte : Prop :=
  ∀ (M : List Byte) (R : Nat), 0 < R →
    (∀ i : Nat, i ≠ M.length → (paddedMessage M R 0x06).getD i 0 = (paddedMessage M R 0x01).getD i 0) ∧
    (2 ≤ padLength M.length R →
      (paddedMessage M R 0x06).getD M.length 0 = 0x06 ∧ (paddedMessage M R 0x01).getD M.length 0 = 0x01) ∧
    (padLength M.length R = 1 →
      (paddedMessage M R 0x06).getD M.length 0 = 0x86 ∧ (paddedMessage M R 0x01).getD M.length 0 = 0x81)

/-- R170, R171: the two tables as printed; and what R172 infers from them ("[derived: from rule R170]"): r + c = 1600,
N = c/2 and N ≤ r. -/
def Obligations.VariantAndDomainTables : Prop :=
  ([0, 1, 2, 3] : List (BitVec 2)).map (fun v =>
      ((rateBytes v).toNat * 8, (rateBytes v).toNat, (rateBytes v).toNat / 8, capacityBits v,
        (outputBits v).toNat, (outputBits v).toNat / 4)) =
    [(1152, 144, 18, 448, 224, 56), (1088, 136, 17, 512, 256, 64), (832, 104, 13, 768, 384, 96),
     (576, 72, 9, 1024, 512, 128)] ∧
  (padField .sha3 = 0 ∧ domainByte .sha3 = 0x06) ∧ (padField .keccak = 1 ∧ domainByte .keccak = 0x01) ∧
  (∀ v : BitVec 2, (rateBytes v).toNat * 8 + capacityBits v = 1600 ∧
    (outputBits v).toNat = capacityBits v / 2 ∧ (outputBits v).toNat ≤ (rateBytes v).toNat * 8)

/-! ### Engine steps -/

/-- R140: the ABSORB step by lane number: lanes below R/8 are XORed with the block's bytes, the capacity lanes stay, the
round index is 0, the next phase is ROUND, and nothing else changes; the block lies inside the padded message. -/
def Obligations.AbsorbStepXorsTheRateLanes : Prop :=
  ∀ s : State, Inv s → s.phase = .absorb →
    ∃ t : State, engineStep s = t ∧ t = { s with lanes := t.lanes, rnd := t.rnd, phase := t.phase } ∧
      t.rnd = 0 ∧ t.phase = .round ∧
      (s.blk.toNat * s.ctx.R.toNat + s.ctx.R.toNat ≤ s.ctx.nblk.toNat * s.ctx.R.toNat) ∧
      (∀ x y : Fin 5, x.val + 5 * y.val < s.ctx.R.toNat / 8 →
        t.lanes.get x y = s.lanes.get x y ^^^
          le64 (fun b => enginePadded s (s.blk.toNat * s.ctx.R.toNat + 8 * (x.val + 5 * y.val) + b))) ∧
      (∀ x y : Fin 5, s.ctx.R.toNat / 8 ≤ x.val + 5 * y.val → t.lanes.get x y = s.lanes.get x y)

/-- R140, R50, as R74 infers from them ("[derived: from rule R50, rule R51, rule R61 and 42_sponge_fsm.md rule R140]"):
a host word standing in MSG at byte blk·R + 8k, wholly below L, is exactly the lane XORed into
A[k mod 5][k div 5]. -/
def Obligations.HostWordIsTheAbsorbedLane : Prop :=
  ∀ (s : State) (x y : Fin 5) (v : Word), s.phase = .absorb →
    x.val + 5 * y.val < s.ctx.R.toNat / 8 →
    s.blk.toNat * s.ctx.R.toNat + 8 * (x.val + 5 * y.val) + 8 ≤ s.ctx.L.toNat →
    (∀ b : Fin 8, msgByte s (s.blk.toNat * s.ctx.R.toNat + 8 * (x.val + 5 * y.val) + b.val) = byteOf v b.val) →
    (engineStep s).lanes.get x y = s.lanes.get x y ^^^ v

/-- R141: the ROUND step: one round on A, then the round loop, the end of a PERMUTE, the next block, or FORMAT. That
rnd stays 23 after round 23, and that blk and the run context are kept at the end of a PERMUTE, is DEDUCED (log entry
11). -/
def Obligations.RoundStepSequencesTheRun : Prop :=
  ∀ s : State, s.phase = .round →
    (∀ i : Fin 24, s.rnd.val < 23 → i.val = s.rnd.val + 1 →
      engineStep s = { s with lanes := keccakRound s.lanes s.rnd, rnd := i }) ∧
    (s.rnd.val = 23 → s.ctx.op = .permute →
      engineStep s = { s with lanes := keccakRound s.lanes s.rnd, phase := .idle, busy := false, done := true }) ∧
    (s.rnd.val = 23 → s.ctx.op ≠ .permute → s.blk.toNat + 1 < s.ctx.nblk.toNat →
      engineStep s = { s with lanes := keccakRound s.lanes s.rnd, blk := s.blk + 1, phase := .absorb }) ∧
    (s.rnd.val = 23 → s.ctx.op ≠ .permute → ¬(s.blk.toNat + 1 < s.ctx.nblk.toNat) →
      engineStep s = { s with lanes := keccakRound s.lanes s.rnd, phase := .format })

/-- R142: the FORMAT step writes DIGEST_HEX, RESULT, BUSY and DONE in one atomic step and nothing else but the phase.
That rnd, blk and the run context, which R142 does not name, are kept is DEDUCED (log entry 11). -/
def Obligations.FormatStepPublishesTheResult : Prop :=
  ∀ s : State, s.phase = .format →
    ∃ t : State, engineStep s = t ∧
      t = { s with digestHex := t.digestHex, result := t.result, phase := t.phase, busy := t.busy, done := t.done } ∧
      t.digestHex = formatHex s.lanes s.ctx.N.toNat ∧
      resultNblk t.result = s.ctx.nblk ∧ resultPad t.result = s.ctx.pad ∧ resultVariant t.result = s.ctx.var ∧
      resultHexlen t.result = BitVec.ofNat 8 (s.ctx.N.toNat / 4) ∧
      t.result.extractLsb' 10 2 = 0 ∧ t.result.extractLsb' 14 18 = 0 ∧
      t.phase = .idle ∧ t.busy = false ∧ t.done = true

/-- R143: the engine has a step exactly when BUSY = 1, that is, when the phase is not IDLE; idle, nothing changes. -/
def Obligations.EngineHasAStepExactlyWhenBusy : Prop :=
  ∀ s : State, Inv s →
    (s.busy = true ↔ engineStep s ≠ s) ∧
    (s.phase = .idle → s.schedule = [] → step s = .next { s with bus := .quiet })

/-- R73, R184, R27: the engine writes no byte of MSG, nor LEN, MSG_CAP or ERRCODE. That it keeps the run context
during a run is R32, and at the last step of a run it is DEDUCED (log entry 11). -/
def Obligations.EngineWritesOnlyItsOwn : Prop :=
  ∀ s : State,
    (∀ k : Nat, msgByte (engineStep s) k = msgByte s k) ∧ (engineStep s).msg = s.msg ∧
    (engineStep s).len = s.len ∧ (engineStep s).cap = s.cap ∧ (engineStep s).errcode = s.errcode ∧
    (engineStep s).ctx = s.ctx ∧ (engineStep s).msgDraw = s.msgDraw ∧ (engineStep s).draws = s.draws ∧
    (engineStep s).schedule = s.schedule ∧ (engineStep s).bus = s.bus

/-- R54, R73, R103: MSG bytes at an index ≥ L have no effect on any engine step: replaced by others, written or not,
every step is the same but for them. -/
def Obligations.BytesBeyondTheLengthHaveNoEffect : Prop :=
  ∀ (s : State) (m : Memory) (draw : Nat),
    (∀ i : Nat, i < s.ctx.L.toNat → msgByte { s with msg := m, msgDraw := draw } i = msgByte s i) →
    engineStep { s with msg := m, msgDraw := draw } = { engineStep s with msg := m, msgDraw := draw }

/-! ### The formatter -/

/-- R160, R50: serialization in lane order, least-significant byte first, and that absorbing bytes and serializing the
lane gives them back. -/
def Obligations.SerializeInLaneOrder : Prop :=
  (∀ (a : Lanes) (x y : Fin 5) (i : Fin 8),
    (serialize a)[8 * (x.val + 5 * y.val) + i.val]? = some ((a.get x y).extractLsb' (8 * i.val) 8)) ∧
  (∀ (b : Nat → Byte) (i : Fin 8), byteOf (le64 b) i.val = b i.val) ∧
  (∀ v : Word, le64 (byteOf v) = v)

/-- R161, R162, R163: character 2i and 2i + 1 of the digest are the high and the low nibble of S[i], as lowercase ASCII
hex, for the first N/8 bytes; the rest of the 128 bytes is 0x00. The ASCII codes are general knowledge (log entry 8). -/
def Obligations.FormatHexWritesNibblesThenZeros : Prop :=
  (∀ n : BitVec 4, hexChar n =
    ([0x30, 0x31, 0x32, 0x33, 0x34, 0x35, 0x36, 0x37, 0x38, 0x39, 0x61, 0x62, 0x63, 0x64, 0x65, 0x66] :
      List Byte).getD n.toNat 0) ∧
  (∀ (a : Lanes) (v : BitVec 2) (i : Fin 200), i.val < (outputBits v).toNat / 8 →
    (formatHex a (outputBits v).toNat)[2 * i.val]? = some (hexChar ((serialize a)[i].extractLsb' 4 4)) ∧
    (formatHex a (outputBits v).toNat)[2 * i.val + 1]? = some (hexChar ((serialize a)[i].extractLsb' 0 4))) ∧
  (∀ (a : Lanes) (v : BitVec 2) (j : Fin 128), (outputBits v).toNat / 4 ≤ j.val →
    (formatHex a (outputBits v).toNat)[j] = 0x00)

/-- R142, R161 to R163, as R165 infers from them ("[derived: from rules R161 to R163 and 42_sponge_fsm.md rule R142]"):
the step that completes a HASH leaves HEXLEN = 56, 64, 96 or 128 by VARIANT and HEXLEN lowercase hex
characters. -/
def Obligations.CompletedHashHasItsLength : Prop :=
  ∀ s : State, Inv s → s.phase = .format →
    (resultHexlen (engineStep s).result).toNat = [56, 64, 96, 128].getD s.ctx.var.toNat 0 ∧
    (∀ j : Fin 128, j.val < (resultHexlen (engineStep s).result).toNat →
      let c := (engineStep s).digestHex[j].toNat
      (0x30 ≤ c ∧ c ≤ 0x39) ∨ (0x61 ≤ c ∧ c ≤ 0x66))

/-! ### Reset and invariants -/

/-- R200: the reset event, from any state, during a run or not. -/
def Obligations.ResetZeroesAllButMsg : Prop :=
  ∀ (s : State) (rest : List Turn), s.schedule = .reset :: rest →
    ∃ t : State, step s = .next t ∧
      (∀ x y : Fin 5, t.lanes.get x y = 0) ∧ statusWord t = 0 ∧ t.len = 0 ∧ t.result = 0 ∧
      (∀ j : Fin 128, t.digestHex[j] = 0x00) ∧ t.phase = .idle ∧ t.rnd = 0 ∧ t.blk = 0 ∧
      t.ctx = ⟨.none, 0, 0, 0, 0, 0, 0, 0⟩ ∧
      (∀ i : Nat, msgByte t i = msgByte s i) ∧ t.msg = s.msg ∧ t.cap = s.cap ∧ doneOut t = false

/-- R20 to R28, R200 and the read table of 95_test_vectors.md §7.3: after a reset, ID and CAP read their constants and
every other offset below the MSG window reads 0. -/
def Obligations.RegistersReadResetValues : Prop :=
  ∀ (s : State) (off : Nat), off < 0x10000 →
    memRead (resetBlock s) off =
      if off = 0x000 then 0x4B45434316000007 else if off = 0x008 then BitVec.ofNat 64 s.cap else 0

/-- R200, R201: the invariant, which holds what the spec's rules and its inference R30 say, holds after power-on, for
every legal MSG_CAP and every draw of the MSG bytes, and of the model's reset state. -/
def Obligations.PowerOnMeetsTheInvariant : Prop :=
  Inv State.reset ∧
  (∀ cap draw : Nat, legalMsgCap cap = true → Inv (State.powerOn cap draw))

/-- Every step of every agent keeps the invariant (R7, R20 to R32, R165, R180), from every state that meets it. -/
def Obligations.EveryStepKeepsTheInvariant : Prop :=
  ∀ s t : State, Inv s → step s = .next t → Inv t

/-- R188, R187: no step faults and none is refused, from any state. -/
def Obligations.NoStepFaultsOrIsRefused : Prop :=
  ∀ s : State, ∃ t : State, step s = .next t

/-- R23, R31, as R30 infers ("[derived: from rule R23 and 42_sponge_fsm.md rules R130 to R143]"), of every state
reached from power-on under every schedule of host, engine and reset turns. -/
def Obligations.BusyExactlyWhenPhaseIsNotIdle : Prop :=
  ∀ (cap draw n : Nat) (turns : List Turn) (t : State), legalMsgCap cap = true →
    run n { State.powerOn cap draw with schedule := turns } = .next t →
    (t.busy = true ↔ t.phase ≠ .idle) ∧ ¬(t.busy = true ∧ t.done = true)

/-- R20, R25, R26: the only steps that write A, RESULT and DIGEST_HEX. -/
def Obligations.OnlyTheseStepsWriteLanesAndResults : Prop :=
  ∀ s t : State, step s = .next t →
    (t.lanes ≠ s.lanes →
      nextTurn s = .reset ∨ (isCommandWrite (nextTurn s) = true ∧ s.busy = false ∧ t.lanes = Lanes.zero) ∨
      (nextTurn s = .engine ∧ (s.phase = .absorb ∨ s.phase = .round))) ∧
    (t.result ≠ s.result ∨ t.digestHex ≠ s.digestHex →
      nextTurn s = .reset ∨ (nextTurn s = commandTurn (encode .clear) ∧ s.busy = false) ∨
      (nextTurn s = .engine ∧ s.phase = .format ∧ t.busy = false))

/-- R24, R27, R44, R73: LEN and MSG change only by a host write to them while BUSY = 0, or LEN by reset; MSG_CAP and the
power-on draw never change. -/
def Obligations.OnlyIdleHostWritesChangeLenAndMsg : Prop :=
  ∀ s t : State, step s = .next t →
    (t.len ≠ s.len → nextTurn s = .reset ∨
      (∃ v : Word, nextTurn s = .host (.write 0x020 v) ∧ s.busy = false ∧ t.len = v)) ∧
    (∀ i : Nat, msgByte t i ≠ msgByte s i →
      ∃ (off : BitVec 17) (v : Word), nextTurn s = .host (.write off v) ∧ s.busy = false ∧
        off.toNat % 8 = 0 ∧ off.toNat ≤ 0x10000 + i ∧ 0x10000 + i < off.toNat + 8 ∧
        msgByte t i = byteOf v (0x10000 + i - off.toNat)) ∧
    t.cap = s.cap ∧ t.msgDraw = s.msgDraw

/-- R32: the run context is constant for the whole run: while BUSY = 1 no step but a reset changes it. At the last
step of the run this is DEDUCED (log entry 11). -/
def Obligations.RunContextIsConstantDuringARun : Prop :=
  ∀ s t : State, s.busy = true → nextTurn s ≠ .reset → step s = .next t → t.ctx = s.ctx

/-- R186: the `done` output rises only at the last engine step of a run and falls only at a CMD write while BUSY = 0
or at reset. -/
def Obligations.DoneOutputEdges : Prop :=
  ∀ s t : State, Inv s → step s = .next t →
    (doneOut s = false → doneOut t = true →
      nextTurn s = .engine ∧ s.busy = true ∧ t.busy = false ∧ engineStepsLeft s = 1) ∧
    (doneOut s = true → doneOut t = false →
      nextTurn s = .reset ∨ (isCommandWrite (nextTurn s) = true ∧ s.busy = false)) ∧
    (isCommandWrite (nextTurn s) = true → s.busy = false → doneOut t = false)

/-! ### Whole runs -/

/-- R140 to R142, as R144 infers from them ("[derived: from rules R131, R134, R140 to R142]"): a run in progress takes
exactly `engineStepsLeft` engine steps, whose values at the start are nblk·25 + 1 for a HASH and 24 for a PERMUTE;
before them BUSY is 1, after them BUSY is 0 and DONE is 1. -/
def Obligations.EveryRunEndsInItsStepCount : Prop :=
  (∀ s : State, Inv s → s.busy = true →
    (∀ n : Nat, n < engineStepsLeft s → (engineSteps n s).busy = true) ∧
    (engineSteps (engineStepsLeft s) s).busy = false ∧ (engineSteps (engineStepsLeft s) s).done = true) ∧
  (∀ r ∈ hashRows, ∀ s : State, legalMsgCap s.cap = true → s.len.toNat ≤ s.cap →
    engineStepsLeft (hashStarted r s) = (s.len.toNat / r.rate + 1) * 25 + 1) ∧
  (∀ s : State, engineStepsLeft (permuteStarted s) = 24)

/-- R131, R140 to R142, as R132 infers from them ("[derived: from rules R131, R140, R141, R142]"): a HASH from an idle
block, run to its end, leaves SpongeAbsorb(MSG[0..L−1], R, d) in A, its FormatHex in DIGEST_HEX, and RESULT, with BUSY
= 0, DONE = 1 and ERRCODE = 0; MSG and LEN are as before. The schedule is empty, so that the engine runs alone: this
is the model's choice of one interleaving (log entry 1), and RunIsTheSameUnderEveryInterleaving speaks of the others.
-/
def Obligations.HashRunComputesTheSponge : Prop :=
  ∀ r ∈ hashRows, ∀ s : State, legalMsgCap s.cap = true → s.busy = false → s.len.toNat ≤ s.cap →
    ∃ t u : State,
      exec r.instr { s with schedule := [] } = .next t ∧
      run ((s.len.toNat / r.rate + 1) * 25 + 1) t = .next u ∧
      u.lanes = spongeAbsorb (messageOf s s.len.toNat) r.rate r.dom ∧
      u.digestHex = formatHex (spongeAbsorb (messageOf s s.len.toNat) r.rate r.dom) r.bits ∧
      u.result = resultWord (BitVec.ofNat 32 (s.len.toNat / r.rate + 1)) r.pad r.var (BitVec.ofNat 8 (r.bits / 4)) ∧
      u.busy = false ∧ u.done = true ∧ u.errcode = 0 ∧ u.phase = .idle ∧
      u.len = s.len ∧ u.msg = s.msg ∧ u.cap = s.cap

/-- R134, R144: PERMUTE from an idle block, run to its end, leaves KeccakF of A in A after exactly 24 engine steps,
RESULT and DIGEST_HEX unchanged; while BUSY = 1 it only records code 4; a PERMUTE word with a bit in [63:4] is
rejected with code 1. The schedule is empty, so that the engine runs alone: this is the model's choice of one
interleaving (log entry 1), and RunIsTheSameUnderEveryInterleaving speaks of the others. -/
def Obligations.PermuteRunAppliesKeccakF : Prop :=
  (∀ s : State, s.busy = false →
    ∃ t u : State,
      exec .permute { s with schedule := [] } = .next t ∧ t.busy = true ∧ t.done = false ∧ t.errcode = 0 ∧
      run 24 t = .next u ∧ u.lanes = keccakF s.lanes ∧ u.result = s.result ∧ u.digestHex = s.digestHex ∧
      u.busy = false ∧ u.done = true ∧ u.errcode = 0 ∧ u.phase = .idle ∧
      u.len = s.len ∧ u.msg = s.msg ∧ u.cap = s.cap) ∧
  (∀ s : State, s.busy = true → exec .permute s = .next { s with errcode := 4 }) ∧
  (∀ (s : State) (w : Word), s.busy = false → w.extractLsb' 0 4 = 2 → w.extractLsb' 4 60 ≠ 0 →
    memWrite 0x010 w s = .next { s with done := false, errcode := 1 })

/-- R61, R62, R66, as R68 infers from them ("[derived: from rules R61, R62, R66 and 42_sponge_fsm.md rules R130 to
R143]"): every interleaving of host transactions and engine turns during a run gives what the engine alone gives:
after turns that hold no reset and end with an engine turn, all engine turns falling inside the run, the block is as
after as many engine steps, but for ERRCODE and the host's side of the bus. -/
def Obligations.RunIsTheSameUnderEveryInterleaving : Prop :=
  ∀ (s u : State) (turns : List Turn), .reset ∉ turns →
    (∀ n : Nat, n ≤ turns.count .engine → (engineSteps n s).busy = true) →
    run (turns.length + 1) { s with schedule := turns ++ [.engine] } = .next u →
    u.runView = (engineSteps (turns.count .engine + 1) s).runView

/-- R131, R61, as R146 infers ("[derived: from rules R131, R132 and 20_memory.md rule R68]"): two HASH runs of the
same command with the same LEN and MSG[0..L−1], in blocks that may differ in everything else and under any two
interleavings of host transactions, end with the same A, DIGEST_HEX and RESULT. -/
def Obligations.HashRunsAreDeterministicAndIsolated : Prop :=
  ∀ r ∈ hashRows, ∀ (s₁ s₂ t₁ t₂ u₁ u₂ : State) (turns₁ turns₂ : List Turn),
    legalMsgCap s₁.cap = true → legalMsgCap s₂.cap = true → s₁.busy = false → s₂.busy = false →
    s₁.len = s₂.len → s₁.len.toNat ≤ s₁.cap → s₂.len.toNat ≤ s₂.cap →
    (∀ i : Nat, i < s₁.len.toNat → msgByte s₁ i = msgByte s₂ i) →
    exec r.instr s₁ = .next t₁ → exec r.instr s₂ = .next t₂ →
    .reset ∉ turns₁ → turns₁.count .engine = (s₁.len.toNat / r.rate + 1) * 25 →
    .reset ∉ turns₂ → turns₂.count .engine = (s₂.len.toNat / r.rate + 1) * 25 →
    run (turns₁.length + 1) { t₁ with schedule := turns₁ ++ [.engine] } = .next u₁ →
    run (turns₂.length + 1) { t₂ with schedule := turns₂ ++ [.engine] } = .next u₂ →
    u₁.busy = false ∧ u₂.busy = false ∧
    u₁.lanes = u₂.lanes ∧ u₁.digestHex = u₂.digestHex ∧ u₁.result = u₂.result

/-- R92, R202, R204: `load_msg M` on an idle block, with no engine turn needed between its writes, leaves LEN = L and
MSG[0..L−1] = M, and every register but LEN and MSG as it was. -/
def Obligations.LoadMsgPlacesTheMessage : Prop :=
  ∀ (s : State) (M : List Byte), legalMsgCap s.cap = true → s.busy = false → M.length ≤ s.cap →
    ∃ t : State,
      run (scriptLoadMsg M).length { s with schedule := (scriptLoadMsg M).map .host } = .next t ∧
      t.len = BitVec.ofNat 64 M.length ∧ (∀ i : Nat, i < M.length → msgByte t i = M.getD i 0) ∧
      (∀ i : Nat, (M.length + 7) / 8 * 8 ≤ i → msgByte t i = msgByte s i) ∧
      t = { s with len := t.len, msg := t.msg, bus := t.bus, schedule := t.schedule }
end

