-- ==== Sys2Proof/Laws/Decode.lean ====
section
/-! SUPPORT. The decoder's cases, said once, and a word taken apart into its fields (R82, R87). -/

namespace Sys2Proof

/-- A word is its five fields (R82). -/
theorem word_eq_fields (w : Word) :
    w = w.extractLsb' 10 54 ++ w.extractLsb' 8 2 ++ w.extractLsb' 6 2 ++ w.extractLsb' 4 2 ++ w.extractLsb' 0 4 := by
  apply BitVec.eq_of_getLsbD_eq
  intro i hi
  simp only [BitVec.getLsbD_append, BitVec.getLsbD_extractLsb']
  by_cases h1 : i < 4
  · simp [h1]
  by_cases h2 : i - 4 < 2
  · simp [h1, h2, show 4 + (i - 4) = i by omega]
  by_cases h3 : i - 4 - 2 < 2
  · simp [h1, h2, h3, show 6 + (i - 4 - 2) = i by omega]
  by_cases h4 : i - 4 - 2 - 2 < 2
  · simp [h1, h2, h3, h4, show 8 + (i - 4 - 2 - 2) = i by omega]
  · simp [h1, h2, h3, h4, show i - 4 - 2 - 2 - 2 < 54 by omega, show 10 + (i - 4 - 2 - 2 - 2) = i by omega]

/-- A word whose bits [63:4] are 0 is its OP (R82, R88). -/
theorem word_eq_op (w : Word) (h : w.extractLsb' 4 60 = 0) : w = 0#60 ++ w.extractLsb' 0 4 := by
  apply BitVec.eq_of_getLsbD_eq
  intro i hi
  have hb := congrArg (·.getLsbD (i - 4)) h
  simp only [BitVec.getLsbD_extractLsb'] at hb
  simp only [BitVec.getLsbD_append, BitVec.getLsbD_extractLsb']
  by_cases h1 : i < 4
  · simp [h1]
  · simp only [show 4 + (i - 4) = i by omega, show i - 4 < 60 by omega, decide_true, Bool.true_and] at hb
    simpa [h1] using hb

/-- A 2-bit field has four values (R84, R85). -/
theorem field2_cases (v : BitVec 2) : v = 0 ∨ v = 1 ∨ v = 2 ∨ v = 3 := by
  revert v; decide

/-- Decoding a HASH-shaped word (R87). -/
theorem decode_of_hash_shape {w : Word} (h : w.extractLsb' 0 4 = 1 ∧ w.extractLsb' 6 2 = 0 ∧ w.extractLsb' 10 54 = 0) :
    decode w =
      if w.extractLsb' 8 2 = 0 then .ok (sha3Instr (w.extractLsb' 4 2))
      else if w.extractLsb' 8 2 = 1 then .ok (keccakInstr (w.extractLsb' 4 2))
      else .error .pad := by
  have n2 : w ≠ 2 := by rintro rfl; revert h; decide
  have n3 : w ≠ 3 := by rintro rfl; revert h; decide
  rw [decode, if_neg n2, if_neg n3, if_pos h]

/-- Decoding any other word (R87). -/
theorem decode_of_other_shape {w : Word}
    (h : ¬(w.extractLsb' 0 4 = 1 ∧ w.extractLsb' 6 2 = 0 ∧ w.extractLsb' 10 54 = 0)) :
    decode w = if w = 2 then .ok .permute else if w = 3 then .ok .clear else .error .cmd := by
  rw [decode, if_neg h]

end Sys2Proof
end

