-- ==== Sys2Proof/Laws/State.lean ====
section
/-! SUPPORT. One lemma for each field of State and each named update of it, true by rfl. -/

namespace Sys2Proof.Machine

/-! ### reject -/

@[simp] theorem reject_lanes (e : ErrCode) (s : State) : (reject e s).lanes = s.lanes := rfl
@[simp] theorem reject_cap (e : ErrCode) (s : State) : (reject e s).cap = s.cap := rfl
@[simp] theorem reject_busy (e : ErrCode) (s : State) : (reject e s).busy = s.busy := rfl
@[simp] theorem reject_done (e : ErrCode) (s : State) : (reject e s).done = s.done := rfl
@[simp] theorem reject_errcode (e : ErrCode) (s : State) : (reject e s).errcode = e.code := rfl
@[simp] theorem reject_len (e : ErrCode) (s : State) : (reject e s).len = s.len := rfl
@[simp] theorem reject_result (e : ErrCode) (s : State) : (reject e s).result = s.result := rfl
@[simp] theorem reject_digestHex (e : ErrCode) (s : State) : (reject e s).digestHex = s.digestHex := rfl
@[simp] theorem reject_msg (e : ErrCode) (s : State) : (reject e s).msg = s.msg := rfl
@[simp] theorem reject_phase (e : ErrCode) (s : State) : (reject e s).phase = s.phase := rfl
@[simp] theorem reject_rnd (e : ErrCode) (s : State) : (reject e s).rnd = s.rnd := rfl
@[simp] theorem reject_blk (e : ErrCode) (s : State) : (reject e s).blk = s.blk := rfl
@[simp] theorem reject_ctx (e : ErrCode) (s : State) : (reject e s).ctx = s.ctx := rfl
@[simp] theorem reject_msgDraw (e : ErrCode) (s : State) : (reject e s).msgDraw = s.msgDraw := rfl
@[simp] theorem reject_draws (e : ErrCode) (s : State) : (reject e s).draws = s.draws := rfl
@[simp] theorem reject_schedule (e : ErrCode) (s : State) : (reject e s).schedule = s.schedule := rfl
@[simp] theorem reject_bus (e : ErrCode) (s : State) : (reject e s).bus = s.bus := rfl

/-! ### resetBlock -/

@[simp] theorem resetBlock_lanes (s : State) : (resetBlock s).lanes = Lanes.zero := rfl
@[simp] theorem resetBlock_cap (s : State) : (resetBlock s).cap = s.cap := rfl
@[simp] theorem resetBlock_busy (s : State) : (resetBlock s).busy = false := rfl
@[simp] theorem resetBlock_done (s : State) : (resetBlock s).done = false := rfl
@[simp] theorem resetBlock_errcode (s : State) : (resetBlock s).errcode = 0 := rfl
@[simp] theorem resetBlock_len (s : State) : (resetBlock s).len = 0 := rfl
@[simp] theorem resetBlock_result (s : State) : (resetBlock s).result = 0 := rfl
@[simp] theorem resetBlock_digestHex (s : State) : (resetBlock s).digestHex = Vector.replicate 128 0 := rfl
@[simp] theorem resetBlock_msg (s : State) : (resetBlock s).msg = s.msg := rfl
@[simp] theorem resetBlock_phase (s : State) : (resetBlock s).phase = .idle := rfl
@[simp] theorem resetBlock_rnd (s : State) : (resetBlock s).rnd = 0 := rfl
@[simp] theorem resetBlock_blk (s : State) : (resetBlock s).blk = 0 := rfl
@[simp] theorem resetBlock_ctx (s : State) : (resetBlock s).ctx = RunContext.empty := rfl
@[simp] theorem resetBlock_msgDraw (s : State) : (resetBlock s).msgDraw = s.msgDraw := rfl
@[simp] theorem resetBlock_draws (s : State) : (resetBlock s).draws = s.draws := rfl
@[simp] theorem resetBlock_schedule (s : State) : (resetBlock s).schedule = s.schedule := rfl
@[simp] theorem resetBlock_bus (s : State) : (resetBlock s).bus = s.bus := rfl

/-! ### writeMsgWord -/

@[simp] theorem writeMsgWord_lanes (i : Nat) (v : Word) (s : State) : (writeMsgWord i v s).lanes = s.lanes := rfl
@[simp] theorem writeMsgWord_cap (i : Nat) (v : Word) (s : State) : (writeMsgWord i v s).cap = s.cap := rfl
@[simp] theorem writeMsgWord_busy (i : Nat) (v : Word) (s : State) : (writeMsgWord i v s).busy = s.busy := rfl
@[simp] theorem writeMsgWord_done (i : Nat) (v : Word) (s : State) : (writeMsgWord i v s).done = s.done := rfl
@[simp] theorem writeMsgWord_errcode (i : Nat) (v : Word) (s : State) : (writeMsgWord i v s).errcode = s.errcode := rfl
@[simp] theorem writeMsgWord_len (i : Nat) (v : Word) (s : State) : (writeMsgWord i v s).len = s.len := rfl
@[simp] theorem writeMsgWord_result (i : Nat) (v : Word) (s : State) : (writeMsgWord i v s).result = s.result := rfl
@[simp] theorem writeMsgWord_digestHex (i : Nat) (v : Word) (s : State) : (writeMsgWord i v s).digestHex = s.digestHex := rfl
@[simp] theorem writeMsgWord_msg (i : Nat) (v : Word) (s : State) : (writeMsgWord i v s).msg = Memory.insertWord s.msg i v := rfl
@[simp] theorem writeMsgWord_phase (i : Nat) (v : Word) (s : State) : (writeMsgWord i v s).phase = s.phase := rfl
@[simp] theorem writeMsgWord_rnd (i : Nat) (v : Word) (s : State) : (writeMsgWord i v s).rnd = s.rnd := rfl
@[simp] theorem writeMsgWord_blk (i : Nat) (v : Word) (s : State) : (writeMsgWord i v s).blk = s.blk := rfl
@[simp] theorem writeMsgWord_ctx (i : Nat) (v : Word) (s : State) : (writeMsgWord i v s).ctx = s.ctx := rfl
@[simp] theorem writeMsgWord_msgDraw (i : Nat) (v : Word) (s : State) : (writeMsgWord i v s).msgDraw = s.msgDraw := rfl
@[simp] theorem writeMsgWord_draws (i : Nat) (v : Word) (s : State) : (writeMsgWord i v s).draws = s.draws := rfl
@[simp] theorem writeMsgWord_schedule (i : Nat) (v : Word) (s : State) : (writeMsgWord i v s).schedule = s.schedule := rfl
@[simp] theorem writeMsgWord_bus (i : Nat) (v : Word) (s : State) : (writeMsgWord i v s).bus = s.bus := rfl

/-! ### clearResults -/

@[simp] theorem clearResults_lanes (s : State) : (clearResults s).lanes = Lanes.zero := rfl
@[simp] theorem clearResults_cap (s : State) : (clearResults s).cap = s.cap := rfl
@[simp] theorem clearResults_busy (s : State) : (clearResults s).busy = s.busy := rfl
@[simp] theorem clearResults_done (s : State) : (clearResults s).done = s.done := rfl
@[simp] theorem clearResults_errcode (s : State) : (clearResults s).errcode = 0 := rfl
@[simp] theorem clearResults_len (s : State) : (clearResults s).len = s.len := rfl
@[simp] theorem clearResults_result (s : State) : (clearResults s).result = 0 := rfl
@[simp] theorem clearResults_digestHex (s : State) : (clearResults s).digestHex = Vector.replicate 128 0 := rfl
@[simp] theorem clearResults_msg (s : State) : (clearResults s).msg = s.msg := rfl
@[simp] theorem clearResults_phase (s : State) : (clearResults s).phase = s.phase := rfl
@[simp] theorem clearResults_rnd (s : State) : (clearResults s).rnd = s.rnd := rfl
@[simp] theorem clearResults_blk (s : State) : (clearResults s).blk = s.blk := rfl
@[simp] theorem clearResults_ctx (s : State) : (clearResults s).ctx = s.ctx := rfl
@[simp] theorem clearResults_msgDraw (s : State) : (clearResults s).msgDraw = s.msgDraw := rfl
@[simp] theorem clearResults_draws (s : State) : (clearResults s).draws = s.draws := rfl
@[simp] theorem clearResults_schedule (s : State) : (clearResults s).schedule = s.schedule := rfl
@[simp] theorem clearResults_bus (s : State) : (clearResults s).bus = s.bus := rfl

/-! ### startPermute -/

@[simp] theorem startPermute_lanes (s : State) : (startPermute s).lanes = s.lanes := rfl
@[simp] theorem startPermute_cap (s : State) : (startPermute s).cap = s.cap := rfl
@[simp] theorem startPermute_busy (s : State) : (startPermute s).busy = true := rfl
@[simp] theorem startPermute_done (s : State) : (startPermute s).done = s.done := rfl
@[simp] theorem startPermute_errcode (s : State) : (startPermute s).errcode = 0 := rfl
@[simp] theorem startPermute_len (s : State) : (startPermute s).len = s.len := rfl
@[simp] theorem startPermute_result (s : State) : (startPermute s).result = s.result := rfl
@[simp] theorem startPermute_digestHex (s : State) : (startPermute s).digestHex = s.digestHex := rfl
@[simp] theorem startPermute_msg (s : State) : (startPermute s).msg = s.msg := rfl
@[simp] theorem startPermute_phase (s : State) : (startPermute s).phase = .round := rfl
@[simp] theorem startPermute_rnd (s : State) : (startPermute s).rnd = 0 := rfl
@[simp] theorem startPermute_blk (s : State) : (startPermute s).blk = s.blk := rfl
@[simp] theorem startPermute_ctx (s : State) : (startPermute s).ctx = { s.ctx with op := .permute } := rfl
@[simp] theorem startPermute_msgDraw (s : State) : (startPermute s).msgDraw = s.msgDraw := rfl
@[simp] theorem startPermute_draws (s : State) : (startPermute s).draws = s.draws := rfl
@[simp] theorem startPermute_schedule (s : State) : (startPermute s).schedule = s.schedule := rfl
@[simp] theorem startPermute_bus (s : State) : (startPermute s).bus = s.bus := rfl

/-! ### hostRead -/

@[simp] theorem hostRead_lanes (off : BitVec 17) (s : State) : (hostRead off s).lanes = s.lanes := rfl
@[simp] theorem hostRead_cap (off : BitVec 17) (s : State) : (hostRead off s).cap = s.cap := rfl
@[simp] theorem hostRead_busy (off : BitVec 17) (s : State) : (hostRead off s).busy = s.busy := rfl
@[simp] theorem hostRead_done (off : BitVec 17) (s : State) : (hostRead off s).done = s.done := rfl
@[simp] theorem hostRead_errcode (off : BitVec 17) (s : State) : (hostRead off s).errcode = s.errcode := rfl
@[simp] theorem hostRead_len (off : BitVec 17) (s : State) : (hostRead off s).len = s.len := rfl
@[simp] theorem hostRead_result (off : BitVec 17) (s : State) : (hostRead off s).result = s.result := rfl
@[simp] theorem hostRead_digestHex (off : BitVec 17) (s : State) : (hostRead off s).digestHex = s.digestHex := rfl
@[simp] theorem hostRead_msg (off : BitVec 17) (s : State) : (hostRead off s).msg = s.msg := rfl
@[simp] theorem hostRead_phase (off : BitVec 17) (s : State) : (hostRead off s).phase = s.phase := rfl
@[simp] theorem hostRead_rnd (off : BitVec 17) (s : State) : (hostRead off s).rnd = s.rnd := rfl
@[simp] theorem hostRead_blk (off : BitVec 17) (s : State) : (hostRead off s).blk = s.blk := rfl
@[simp] theorem hostRead_ctx (off : BitVec 17) (s : State) : (hostRead off s).ctx = s.ctx := rfl
@[simp] theorem hostRead_msgDraw (off : BitVec 17) (s : State) : (hostRead off s).msgDraw = s.msgDraw := rfl
@[simp] theorem hostRead_draws (off : BitVec 17) (s : State) : (hostRead off s).draws = s.draws + 1 := rfl
@[simp] theorem hostRead_schedule (off : BitVec 17) (s : State) : (hostRead off s).schedule = s.schedule := rfl
@[simp] theorem hostRead_bus (off : BitVec 17) (s : State) : (hostRead off s).bus = .data (memRead s off.toNat) := rfl

/-! ### absorbStep -/

@[simp] theorem absorbStep_lanes (s : State) : (absorbStep s).lanes = 
    absorbBlock (enginePadded s) s.ctx.R.toNat (s.blk.toNat * s.ctx.R.toNat) s.lanes := rfl
@[simp] theorem absorbStep_cap (s : State) : (absorbStep s).cap = s.cap := rfl
@[simp] theorem absorbStep_busy (s : State) : (absorbStep s).busy = s.busy := rfl
@[simp] theorem absorbStep_done (s : State) : (absorbStep s).done = s.done := rfl
@[simp] theorem absorbStep_errcode (s : State) : (absorbStep s).errcode = s.errcode := rfl
@[simp] theorem absorbStep_len (s : State) : (absorbStep s).len = s.len := rfl
@[simp] theorem absorbStep_result (s : State) : (absorbStep s).result = s.result := rfl
@[simp] theorem absorbStep_digestHex (s : State) : (absorbStep s).digestHex = s.digestHex := rfl
@[simp] theorem absorbStep_msg (s : State) : (absorbStep s).msg = s.msg := rfl
@[simp] theorem absorbStep_phase (s : State) : (absorbStep s).phase = .round := rfl
@[simp] theorem absorbStep_rnd (s : State) : (absorbStep s).rnd = 0 := rfl
@[simp] theorem absorbStep_blk (s : State) : (absorbStep s).blk = s.blk := rfl
@[simp] theorem absorbStep_ctx (s : State) : (absorbStep s).ctx = s.ctx := rfl
@[simp] theorem absorbStep_msgDraw (s : State) : (absorbStep s).msgDraw = s.msgDraw := rfl
@[simp] theorem absorbStep_draws (s : State) : (absorbStep s).draws = s.draws := rfl
@[simp] theorem absorbStep_schedule (s : State) : (absorbStep s).schedule = s.schedule := rfl
@[simp] theorem absorbStep_bus (s : State) : (absorbStep s).bus = s.bus := rfl

/-! ### formatStep -/

@[simp] theorem formatStep_lanes (s : State) : (formatStep s).lanes = s.lanes := rfl
@[simp] theorem formatStep_cap (s : State) : (formatStep s).cap = s.cap := rfl
@[simp] theorem formatStep_busy (s : State) : (formatStep s).busy = false := rfl
@[simp] theorem formatStep_done (s : State) : (formatStep s).done = true := rfl
@[simp] theorem formatStep_errcode (s : State) : (formatStep s).errcode = s.errcode := rfl
@[simp] theorem formatStep_len (s : State) : (formatStep s).len = s.len := rfl
@[simp] theorem formatStep_result (s : State) : (formatStep s).result = 
    resultWord s.ctx.nblk s.ctx.pad s.ctx.var (BitVec.ofNat 8 (s.ctx.N.toNat / 4)) := rfl
@[simp] theorem formatStep_digestHex (s : State) : (formatStep s).digestHex = formatHex s.lanes s.ctx.N.toNat := rfl
@[simp] theorem formatStep_msg (s : State) : (formatStep s).msg = s.msg := rfl
@[simp] theorem formatStep_phase (s : State) : (formatStep s).phase = .idle := rfl
@[simp] theorem formatStep_rnd (s : State) : (formatStep s).rnd = s.rnd := rfl
@[simp] theorem formatStep_blk (s : State) : (formatStep s).blk = s.blk := rfl
@[simp] theorem formatStep_ctx (s : State) : (formatStep s).ctx = s.ctx := rfl
@[simp] theorem formatStep_msgDraw (s : State) : (formatStep s).msgDraw = s.msgDraw := rfl
@[simp] theorem formatStep_draws (s : State) : (formatStep s).draws = s.draws := rfl
@[simp] theorem formatStep_schedule (s : State) : (formatStep s).schedule = s.schedule := rfl
@[simp] theorem formatStep_bus (s : State) : (formatStep s).bus = s.bus := rfl

/-! ### withFetchWord -/

@[simp] theorem withFetchWord_lanes (s : State) (nbits w : Nat) :
    (s.withFetchWord nbits w).lanes = s.lanes := rfl
@[simp] theorem withFetchWord_cap (s : State) (nbits w : Nat) :
    (s.withFetchWord nbits w).cap = s.cap := rfl
@[simp] theorem withFetchWord_busy (s : State) (nbits w : Nat) :
    (s.withFetchWord nbits w).busy = s.busy := rfl
@[simp] theorem withFetchWord_done (s : State) (nbits w : Nat) :
    (s.withFetchWord nbits w).done = s.done := rfl
@[simp] theorem withFetchWord_errcode (s : State) (nbits w : Nat) :
    (s.withFetchWord nbits w).errcode = s.errcode := rfl
@[simp] theorem withFetchWord_len (s : State) (nbits w : Nat) :
    (s.withFetchWord nbits w).len = s.len := rfl
@[simp] theorem withFetchWord_result (s : State) (nbits w : Nat) :
    (s.withFetchWord nbits w).result = s.result := rfl
@[simp] theorem withFetchWord_digestHex (s : State) (nbits w : Nat) :
    (s.withFetchWord nbits w).digestHex = s.digestHex := rfl
@[simp] theorem withFetchWord_msg (s : State) (nbits w : Nat) :
    (s.withFetchWord nbits w).msg = s.msg := rfl
@[simp] theorem withFetchWord_phase (s : State) (nbits w : Nat) :
    (s.withFetchWord nbits w).phase = s.phase := rfl
@[simp] theorem withFetchWord_rnd (s : State) (nbits w : Nat) :
    (s.withFetchWord nbits w).rnd = s.rnd := rfl
@[simp] theorem withFetchWord_blk (s : State) (nbits w : Nat) :
    (s.withFetchWord nbits w).blk = s.blk := rfl
@[simp] theorem withFetchWord_ctx (s : State) (nbits w : Nat) :
    (s.withFetchWord nbits w).ctx = s.ctx := rfl
@[simp] theorem withFetchWord_msgDraw (s : State) (nbits w : Nat) :
    (s.withFetchWord nbits w).msgDraw = s.msgDraw := rfl
@[simp] theorem withFetchWord_draws (s : State) (nbits w : Nat) :
    (s.withFetchWord nbits w).draws = s.draws := rfl
@[simp] theorem withFetchWord_schedule (s : State) (nbits w : Nat) :
    (s.withFetchWord nbits w).schedule = 
    commandTurn (BitVec.ofNat 64 (w % 2 ^ nbits)) :: s.schedule := rfl
@[simp] theorem withFetchWord_bus (s : State) (nbits w : Nat) :
    (s.withFetchWord nbits w).bus = s.bus := rfl

end Sys2Proof.Machine
end

