-- ==== Sys2Proof/Laws/Exec.lean ====
section
/-! SUPPORT. What the commands do, said once: every meaning is `issue` around an effect, `issue` has two cases, and the
three kinds of effect have their own lemmas. -/

namespace Sys2Proof.Machine

/-- The effect of each command on an idle block whose DONE is already cleared. -/
def effect : Instr → State → State
  | .hashSha3_224 => execHash 0 .sha3
  | .hashSha3_256 => execHash 1 .sha3
  | .hashSha3_384 => execHash 2 .sha3
  | .hashSha3_512 => execHash 3 .sha3
  | .hashKeccak_224 => execHash 0 .keccak
  | .hashKeccak_256 => execHash 1 .keccak
  | .hashKeccak_384 => execHash 2 .keccak
  | .hashKeccak_512 => execHash 3 .keccak
  | .permute => startPermute
  | .clear => clearResults

/-- Every meaning is its effect, issued (R130). -/
theorem exec_eq_issue (i : Instr) (s : State) : exec i s = .next (issue (effect i) s) := by
  cases i <;> rfl

theorem issue_busy (f : State → State) {s : State} (h : s.busy = true) : issue f s = reject .busy s := by
  simp [issue, h]

theorem issue_idle (f : State → State) {s : State} (h : s.busy = false) : issue f s = f { s with done := false } := by
  simp [issue, h]

/-- The kinds of effect: a HASH of one of the eight rows, PERMUTE, or CLEAR. -/
theorem effect_cases (i : Instr) :
    (i ≠ .permute ∧ i ≠ .clear ∧ ∃ var p, effect i = execHash var p) ∨
    (i = .permute ∧ effect i = startPermute) ∨ (i = .clear ∧ effect i = clearResults) := by
  cases i <;> first
    | exact .inl ⟨by decide, by decide, _, _, rfl⟩
    | exact .inr (.inl ⟨rfl, rfl⟩)
    | exact .inr (.inr ⟨rfl, rfl⟩)

theorem execHash_of_too_long {var : BitVec 2} {p : Padding} {s : State} (h : s.cap < s.len.toNat) :
    execHash var p s = reject .len s := by
  simp [execHash, h]

theorem execHash_of_fits {var : BitVec 2} {p : Padding} {s : State} (h : ¬s.cap < s.len.toNat) :
    execHash var p s =
      { s with errcode := 0, ctx := hashContext var p s.len, blk := 0, lanes := Lanes.zero, busy := true, phase := .absorb } := by
  simp [execHash, h]

end Sys2Proof.Machine
end

