-- ==== Sys2Proof/Laws/Lanes.lean ====
section
/-! SUPPORT. The small lemmas of the lane array: reading what was built or set, and equality lane by lane. -/

namespace Sys2Proof.Machine

@[simp] theorem Lanes.get_ofFn (f : Fin 5 → Fin 5 → Lane) (x y : Fin 5) : (Lanes.ofFn f).get x y = f x y := by
  fin_cases x <;> fin_cases y <;> rfl

/-- Two lane arrays are equal when every A[x][y] is. -/
theorem Lanes.ext_get {a b : Lanes} (h : ∀ x y : Fin 5, a.get x y = b.get x y) : a = b := by
  obtain ⟨⟨_, _, _, _, _⟩, ⟨_, _, _, _, _⟩, ⟨_, _, _, _, _⟩, ⟨_, _, _, _, _⟩, ⟨_, _, _, _, _⟩⟩ := a
  obtain ⟨⟨_, _, _, _, _⟩, ⟨_, _, _, _, _⟩, ⟨_, _, _, _, _⟩, ⟨_, _, _, _, _⟩, ⟨_, _, _, _, _⟩⟩ := b
  simp only [Lanes.mk.injEq, Row.mk.injEq]
  refine ⟨⟨h 0 0, h 1 0, h 2 0, h 3 0, h 4 0⟩, ⟨h 0 1, h 1 1, h 2 1, h 3 1, h 4 1⟩,
    ⟨h 0 2, h 1 2, h 2 2, h 3 2, h 4 2⟩, ⟨h 0 3, h 1 3, h 2 3, h 3 3, h 4 3⟩,
    ⟨h 0 4, h 1 4, h 2 4, h 3 4, h 4 4⟩⟩

@[simp] theorem Lanes.get_zero (x y : Fin 5) : Lanes.zero.get x y = 0 := by
  fin_cases x <;> fin_cases y <;> rfl

@[simp] theorem Lanes.get_set (a : Lanes) (x y x' y' : Fin 5) (v : Lane) :
    (a.set x y v).get x' y' = if x' = x ∧ y' = y then v else a.get x' y' := by
  simp [Lanes.set]

/-- Lane number x + 5y is A[x][y] (R11, R20). -/
@[simp] theorem Lanes.lane_laneIndex (a : Lanes) (x y : Fin 5) : a.lane (x.val + 5 * y.val) = a.get x y := by
  fin_cases x <;> fin_cases y <;> rfl

theorem theta_get (a : Lanes) (x y : Fin 5) : (theta a).get x y = a.get x y ^^^ thetaD a x := by
  simp [theta]

theorem chi_get (a : Lanes) (x y : Fin 5) :
    (chi a).get x y = a.get x y ^^^ (~~~ a.get (x + 1) y &&& a.get (x + 2) y) := by
  simp [chi]

theorem iota_get (a : Lanes) (i : Fin 24) (x y : Fin 5) :
    (iota a i).get x y = if x = 0 ∧ y = 0 then a.get 0 0 ^^^ roundConstants[i] else a.get x y := by
  simp [iota]

end Sys2Proof.Machine
end

