-- ==== Sys2Proof/Laws/Memory.lean ====
section
/-! SUPPORT. The laws of MSG: a read after a write, every other byte, and the canonical form that every operation
keeps. -/

namespace Sys2Proof.Machine

theorem Memory.find_insert (m : Memory) (i j : Nat) (b : Byte) :
    Memory.find (Memory.insert m i b) j = if j = i then some b else Memory.find m j := by
  induction m with
  | nil => simp [Memory.insert, Memory.find]
  | cons p rest ih =>
    obtain ⟨k, c⟩ := p
    unfold Memory.insert
    split
    · simp [Memory.find]
    · split
      · subst_vars
        by_cases h : j = k <;> simp [Memory.find, h]
      · rename_i h1 h2
        simp only [Memory.find, ih]
        by_cases h : j = k
        · subst h
          simp [Ne.symm h2]
        · simp [h]

@[simp] theorem Memory.find_insert_same (m : Memory) (i : Nat) (b : Byte) :
    Memory.find (Memory.insert m i b) i = some b := by
  simp [Memory.find_insert]

theorem Memory.find_insert_other (m : Memory) {i j : Nat} (b : Byte) (h : j ≠ i) :
    Memory.find (Memory.insert m i b) j = Memory.find m j := by
  simp [Memory.find_insert, h]

theorem Memory.wfFrom_cons (cap lo i : Nat) (b : Byte) (m : Memory) :
    Memory.wfFrom cap lo ((i, b) :: m) = true ↔ lo ≤ i ∧ i < cap ∧ Memory.wfFrom cap (i + 1) m = true := by
  simp [Memory.wfFrom, and_assoc]

theorem Memory.wfFrom_insert (cap : Nat) (m : Memory) (lo i : Nat) (b : Byte) (hlo : lo ≤ i) (hi : i < cap)
    (h : Memory.wfFrom cap lo m = true) : Memory.wfFrom cap lo (Memory.insert m i b) = true := by
  induction m generalizing lo with
  | nil => simp [Memory.insert, Memory.wfFrom, hlo, hi]
  | cons p rest ih =>
    obtain ⟨k, c⟩ := p
    rw [Memory.wfFrom_cons] at h
    unfold Memory.insert
    split
    · rename_i hk
      exact (Memory.wfFrom_cons ..).2 ⟨hlo, hi, (Memory.wfFrom_cons ..).2 ⟨hk, h.2⟩⟩
    · split
      · subst_vars
        exact (Memory.wfFrom_cons ..).2 h
      · rename_i h1 h2
        exact (Memory.wfFrom_cons ..).2 ⟨h.1, h.2.1, ih (k + 1) (by omega) h.2.2⟩

/-- A write of one byte keeps the canonical form. -/
theorem Memory.wf_insert (cap : Nat) (m : Memory) (i : Nat) (b : Byte) (hi : i < cap)
    (h : Memory.wf cap m = true) : Memory.wf cap (Memory.insert m i b) = true :=
  Memory.wfFrom_insert cap m 0 i b (Nat.zero_le i) hi h

/-- The word write of R61, byte by byte. -/
theorem Memory.find_insertWord (m : Memory) (i j : Nat) (v : Word) :
    Memory.find (Memory.insertWord m i v) j =
      if i ≤ j ∧ j < i + 8 then some (byteOf v (j - i)) else Memory.find m j := by
  simp only [Memory.insertWord, List.range, List.range.loop, List.foldl_cons, List.foldl_nil,
    Memory.find_insert]
  by_cases h : i ≤ j ∧ j < i + 8
  · obtain ⟨d, rfl⟩ : ∃ d, j = i + d := ⟨j - i, by omega⟩
    have hd : d < 8 := by omega
    rw [if_pos h]
    interval_cases d <;> simp
  · rw [if_neg h]
    simp only [show ¬ j = i + 7 by omega, show ¬ j = i + 6 by omega, show ¬ j = i + 5 by omega,
      show ¬ j = i + 4 by omega, show ¬ j = i + 3 by omega, show ¬ j = i + 2 by omega,
      show ¬ j = i + 1 by omega, show ¬ j = i + 0 by omega, if_false]

/-- A word write inside MSG keeps the canonical form. -/
theorem Memory.wf_insertWord (cap : Nat) (m : Memory) (i : Nat) (v : Word) (hi : i + 8 ≤ cap)
    (h : Memory.wf cap m = true) : Memory.wf cap (Memory.insertWord m i v) = true := by
  have key : ∀ (l : List Nat) (m : Memory), (∀ b ∈ l, b < 8) → Memory.wf cap m = true →
      Memory.wf cap (l.foldl (fun m b => Memory.insert m (i + b) (byteOf v b)) m) = true := by
    intro l
    induction l with
    | nil => intro m _ h; exact h
    | cons b l ih =>
      intro m hl hm
      exact ih _ (fun c hc => hl c (List.mem_cons_of_mem _ hc))
        (Memory.wf_insert cap m _ _ (by have := hl b List.mem_cons_self; omega) hm)
  exact key (List.range 8) m (fun b hb => List.mem_range.1 hb) h

/-- The memory at power-on, and so after State.reset, is in canonical form. -/
theorem Memory.wf_powerOn (cap draw : Nat) : Memory.wf cap (State.powerOn cap draw).msg = true := rfl

/-- Every byte of MSG after a word write (R27, R61). -/
theorem msgByte_writeMsgWord (i j : Nat) (v : Word) (s : State) :
    msgByte (writeMsgWord i v s) j = if i ≤ j ∧ j < i + 8 then byteOf v (j - i) else msgByte s j := by
  simp only [msgByte, writeMsgWord, Memory.find_insertWord]
  split <;> rfl

end Sys2Proof.Machine
end

