-- ==== Sys2Proof/Laws/PerInstr.lean ====
section
/-! SUPPORT. The statements made per instruction: each command's word, from the table of R86, decodes to it and has its
fields. -/

namespace Sys2Proof.Laws.Encoded

/-- The command is well formed, its word decodes to it (R86, R87), and the word's fields are the table's. -/
def Statement (i : Instr) : Prop :=
  i.wellFormed = true ∧ decode (encode i) = .ok i ∧ fieldsOf (encode i) = i.fields

theorem hashSha3_224 : Statement .hashSha3_224 := ⟨rfl, rfl, rfl⟩
theorem hashSha3_256 : Statement .hashSha3_256 := ⟨rfl, rfl, rfl⟩
theorem hashSha3_384 : Statement .hashSha3_384 := ⟨rfl, rfl, rfl⟩
theorem hashSha3_512 : Statement .hashSha3_512 := ⟨rfl, rfl, rfl⟩
theorem hashKeccak_224 : Statement .hashKeccak_224 := ⟨rfl, rfl, rfl⟩
theorem hashKeccak_256 : Statement .hashKeccak_256 := ⟨rfl, rfl, rfl⟩
theorem hashKeccak_384 : Statement .hashKeccak_384 := ⟨rfl, rfl, rfl⟩
theorem hashKeccak_512 : Statement .hashKeccak_512 := ⟨rfl, rfl, rfl⟩
theorem permute : Statement .permute := ⟨rfl, rfl, rfl⟩
theorem clear : Statement .clear := ⟨rfl, rfl, rfl⟩

end Sys2Proof.Laws.Encoded
end

