-- ==== Sys2Proof/Laws/Step.lean ====
section
/-! SUPPORT. What a step can do, said once: a step is one turn, and each turn has its inversion lemma. -/

namespace Sys2Proof.Machine

/-- A step takes the next turn, on the state whose schedule has moved on. -/
theorem step_eq (s : State) : step s = takeTurn (nextTurn s) { s with schedule := s.schedule.tail } := by
  obtain ⟨_, _, _, _, _, _, _, _, _, _, _, _, _, _, _, schedule, _⟩ := s
  cases schedule <;> rfl

/-- Every write that answers a next state is one of these (R61, R130). -/
theorem memWrite_cases {off : Nat} {v : Word} {s t : State} (h : memWrite off v s = .next t) :
    ((off % 8 ≠ 0 ∨ 0x20000 ≤ off ∨
        (off ≠ 0x010 ∧ off ≠ 0x020 ∧ ¬(0x10000 ≤ off ∧ off < 0x10000 + s.cap))) ∧ t = s) ∨
    (off = 0x010 ∧ s.busy = true ∧ t = reject .busy s) ∨
    (off = 0x010 ∧ s.busy = false ∧ ∃ e, decode v = .error e ∧ t = reject (illegalCode e) { s with done := false }) ∨
    (off = 0x010 ∧ s.busy = false ∧ ∃ i, decode v = .ok i ∧ t = effect i { s with done := false }) ∨
    (off % 8 = 0 ∧ (off = 0x020 ∨ (0x10000 ≤ off ∧ off < 0x10000 + s.cap)) ∧ s.busy = true ∧ t = reject .busyWr s) ∨
    (off = 0x020 ∧ s.busy = false ∧ t = { s with len := v }) ∨
    (off % 8 = 0 ∧ 0x10000 ≤ off ∧ off < 0x10000 + s.cap ∧ s.busy = false ∧ t = writeMsgWord (off - 0x10000) v s) := by
  unfold memWrite at h
  split at h
  · rename_i hal; cases h; exact .inl ⟨by omega, rfl⟩
  · rename_i hal
    split at h
    · rename_i hoff
      unfold command at h
      split at h
      · rename_i hb; cases h; exact .inr (.inl ⟨hoff, hb, rfl⟩)
      · rename_i hb
        have hb' : s.busy = false := by simpa using hb
        split at h
        · rename_i e he; cases h; exact .inr (.inr (.inl ⟨hoff, hb', e, he, rfl⟩))
        · rename_i i hi
          rw [exec_eq_issue, issue_idle _ hb'] at h
          cases h; exact .inr (.inr (.inr (.inl ⟨hoff, hb', i, hi, rfl⟩)))
    · split at h
      · rename_i hdat
        split at h
        · rename_i hb; cases h; exact .inr (.inr (.inr (.inr (.inl ⟨by omega, hdat, hb, rfl⟩))))
        · rename_i hb
          have hb' : s.busy = false := by simpa using hb
          split at h
          · rename_i hl; cases h; exact .inr (.inr (.inr (.inr (.inr (.inl ⟨hl, hb', rfl⟩)))))
          · rename_i hl; cases h
            exact .inr (.inr (.inr (.inr (.inr (.inr ⟨by omega, by omega, by omega, hb', rfl⟩)))))
      · rename_i hoff hdat; cases h; exact .inl ⟨by omega, rfl⟩

/-- Every turn that answers a next state is the host's read, the host's write, an engine step or a reset. -/
theorem takeTurn_cases {τ : Turn} {s t : State} (h : takeTurn τ s = .next t) :
    (∃ off, τ = .host (.read off) ∧ t = hostRead off s) ∨
    (∃ off v, τ = .host (.write off v) ∧ memWrite off.toNat v { s with bus := .ack } = .next t) ∨
    (τ = .engine ∧ t = engineStep { s with bus := .quiet }) ∨
    (τ = .reset ∧ t = resetBlock { s with bus := .quiet }) := by
  cases τ with
  | host tr =>
    cases tr with
    | read off => cases h; exact .inl ⟨off, rfl, rfl⟩
    | write off v => exact .inr (.inl ⟨off, v, rfl, h⟩)
  | engine => cases h; exact .inr (.inr (.inl ⟨rfl, rfl⟩))
  | reset => cases h; exact .inr (.inr (.inr ⟨rfl, rfl⟩))

/-- Every engine step is one of these, by phase (R140 to R143). -/
theorem engineStep_cases (s : State) :
    (s.phase = .idle ∧ engineStep s = s) ∨
    (s.phase = .absorb ∧ engineStep s = absorbStep s) ∨
    (s.phase = .round ∧ ∃ i : Fin 24, s.rnd.val < 23 ∧ i.val = s.rnd.val + 1 ∧
      engineStep s = { s with lanes := keccakRound s.lanes s.rnd, rnd := i }) ∨
    (s.phase = .round ∧ s.rnd.val = 23 ∧ s.ctx.op = .permute ∧
      engineStep s = { s with lanes := keccakRound s.lanes s.rnd, phase := .idle, busy := false, done := true }) ∨
    (s.phase = .round ∧ s.rnd.val = 23 ∧ s.ctx.op ≠ .permute ∧ s.blk.toNat + 1 < s.ctx.nblk.toNat ∧
      engineStep s = { s with lanes := keccakRound s.lanes s.rnd, blk := s.blk + 1, phase := .absorb }) ∨
    (s.phase = .round ∧ s.rnd.val = 23 ∧ s.ctx.op ≠ .permute ∧ ¬s.blk.toNat + 1 < s.ctx.nblk.toNat ∧
      engineStep s = { s with lanes := keccakRound s.lanes s.rnd, phase := .format }) ∨
    (s.phase = .format ∧ engineStep s = formatStep s) := by
  obtain hp | hp | hp | hp : s.phase = .idle ∨ s.phase = .absorb ∨ s.phase = .round ∨ s.phase = .format := by
    cases s.phase <;> decide
  · exact .inl ⟨hp, by simp only [engineStep, hp]⟩
  · exact .inr (.inl ⟨hp, by simp only [engineStep, hp]⟩)
  · have he : engineStep s = roundStep s := by simp only [engineStep, hp]
    refine .inr (.inr ?_)
    by_cases hr : s.rnd.val < 23
    · exact .inl ⟨hp, ⟨s.rnd.val + 1, by omega⟩, hr, rfl, he.trans (dif_pos hr)⟩
    · have h23 : s.rnd.val = 23 := by omega
      have hl : engineStep s = afterLastRound { s with lanes := keccakRound s.lanes s.rnd } := he.trans (dif_neg hr)
      by_cases hop : s.ctx.op = .permute
      · exact .inr (.inl ⟨hp, h23, hop, hl.trans (if_pos hop)⟩)
      · by_cases hb : s.blk.toNat + 1 < s.ctx.nblk.toNat
        · exact .inr (.inr (.inl ⟨hp, h23, hop, hb, hl.trans ((if_neg hop).trans (if_pos hb))⟩))
        · exact .inr (.inr (.inr (.inl ⟨hp, h23, hop, hb, hl.trans ((if_neg hop).trans (if_neg hb))⟩)))
  · exact .inr (.inr (.inr (.inr (.inr (.inr ⟨hp, by simp only [engineStep, hp]⟩)))))

end Sys2Proof.Machine
end

