-- ==== Sys2Proof/Laws/Words.lean ====
section
/-! SUPPORT. Bytes of words (R50, R51) and fields of STATUS and RESULT (R23, R25). -/

namespace Sys2Proof.Machine

/-- Byte i of LE64(b0, ..., b7) is b_i (R50, R51). -/
theorem byteOf_le64 (b : Nat → Byte) (i : Nat) (h : i < 8) : byteOf (le64 b) i = b i := by
  apply BitVec.eq_of_getLsbD_eq
  intro j hj
  have hi : i = 0 ∨ i = 1 ∨ i = 2 ∨ i = 3 ∨ i = 4 ∨ i = 5 ∨ i = 6 ∨ i = 7 := by omega
  rcases hi with h | h | h | h | h | h | h | h <;> subst h <;>
    simp only [byteOf, le64, BitVec.getLsbD_extractLsb', BitVec.getLsbD_append, hj, decide_true, Bool.true_and] <;>
    simp (disch := omega) only [if_pos, if_neg] <;> congr 1 <;> omega

/-- LE64 of a word's bytes is the word. -/
theorem le64_byteOf (v : Word) : le64 (byteOf v) = v := by
  apply BitVec.eq_of_getLsbD_eq
  intro j hj
  have h8 : j / 8 < 8 := by omega
  have hb := byteOf_le64 (byteOf v) (j / 8) h8
  have := congrArg (fun c : Byte => c.getLsbD (j % 8)) hb
  simp only [byteOf, BitVec.getLsbD_extractLsb', Nat.mod_lt _ (by omega : 8 > 0), decide_true, Bool.true_and,
    show 8 * (j / 8) + j % 8 = j by omega] at this
  exact this

/-- LE64 depends on its eight bytes only. -/
theorem le64_congr {b c : Nat → Byte} (h : ∀ i < 8, b i = c i) : le64 b = le64 c := by
  simp only [le64, h 0 (by omega), h 1 (by omega), h 2 (by omega), h 3 (by omega), h 4 (by omega), h 5 (by omega),
    h 6 (by omega), h 7 (by omega)]

/-- A word is LE64 of bytes as soon as each of its bytes is (R50). -/
theorem le64_eq_of_bytes {b : Nat → Byte} {v : Word} (h : ∀ i < 8, b i = byteOf v i) : le64 b = v := by
  rw [le64_congr h, le64_byteOf]

/-! ### The fields of RESULT (R25) -/

@[simp] theorem resultHexlen_resultWord (nblk : BitVec 32) (pad var : BitVec 2) (hexlen : BitVec 8) :
    resultHexlen (resultWord nblk pad var hexlen) = hexlen := by
  apply BitVec.eq_of_getLsbD_eq
  intro i hi
  simp only [resultHexlen, resultWord, BitVec.getLsbD_extractLsb', BitVec.getLsbD_append]
  simp [hi]

@[simp] theorem resultVariant_resultWord (nblk : BitVec 32) (pad var : BitVec 2) (hexlen : BitVec 8) :
    resultVariant (resultWord nblk pad var hexlen) = var := by
  apply BitVec.eq_of_getLsbD_eq
  intro i hi
  simp only [resultVariant, resultWord, BitVec.getLsbD_extractLsb', BitVec.getLsbD_append]
  simp [hi, show ¬ 8 + i < 8 by omega, show 8 + i - 8 = i by omega]

@[simp] theorem resultPad_resultWord (nblk : BitVec 32) (pad var : BitVec 2) (hexlen : BitVec 8) :
    resultPad (resultWord nblk pad var hexlen) = pad := by
  apply BitVec.eq_of_getLsbD_eq
  intro i hi
  simp only [resultPad, resultWord, BitVec.getLsbD_extractLsb', BitVec.getLsbD_append]
  simp [hi, show ¬ 12 + i < 8 by omega, show ¬ 12 + i - 8 < 2 by omega, show ¬ 12 + i - 8 - 2 < 2 by omega,
    show 12 + i - 8 - 2 - 2 = i by omega]

@[simp] theorem resultNblk_resultWord (nblk : BitVec 32) (pad var : BitVec 2) (hexlen : BitVec 8) :
    resultNblk (resultWord nblk pad var hexlen) = nblk := by
  apply BitVec.eq_of_getLsbD_eq
  intro i hi
  simp only [resultNblk, resultWord, BitVec.getLsbD_extractLsb', BitVec.getLsbD_append]
  simp [hi, show ¬ 32 + i < 8 by omega, show ¬ 32 + i - 8 < 2 by omega, show ¬ 32 + i - 8 - 2 < 2 by omega,
    show ¬ 32 + i - 8 - 2 - 2 < 2 by omega, show ¬ 32 + i - 8 - 2 - 2 - 2 < 18 by omega,
    show 32 + i - 8 - 2 - 2 - 2 - 18 = i by omega]

end Sys2Proof.Machine
end

