-- ==== Sys2Proof/Tests/Slice0.lean ====
section
/-! SUPPORT. The model's own tests: the WellFormed smoke, decoding by words written out from the encoding (R82 to R86), the
spec's vectors (95_test_vectors.md), and for every statement that has hypotheses a witness that meets them. Expected
values come from the spec; a comment names the section. -/

namespace Sys2Proof.Tests

open Sys2Proof.Machine Sys2Proof.Spec

/-! ### Helpers -/

/-- The next state of an outcome, if it is one. -/
def next? (o : Host.Outcome State Fault Refusal) : Option State :=
  match o with
  | .next s => some s
  | .fault _ => none
  | .refused _ => none

/-- STATUS after `write CMD, w` as the first transaction after `s`. -/
def statusAfter (s : State) (w : Nat) : Option Word := (next? (step (s.withFetchWord 64 w))).map statusWord

/-- The block after reset with LEN written. -/
def withLen (len : Word) : State := { State.reset with len := len }

/-- "abc" in MSG, LEN = 3, idle (95_test_vectors.md §4). -/
def abc : State := { State.reset with len := 3, msg := [(0, 0x61), (1, 0x62), (2, 0x63)] }

/-- The run of hash.sha3_256 over "abc", before its first engine step. -/
def hashing : State :=
  { abc with busy := true, phase := .absorb, ctx := ⟨.hash, 1, 0, 136, 256, 0x06, 3, 1⟩ }

/-- The same run at its last ROUND step. -/
def lastRound : State := { hashing with phase := .round, rnd := 23 }

/-- The lanes of 95_test_vectors.md §5. -/
def formatterLanes : Lanes :=
  ((Lanes.zero.set 0 0 0x0123456789ABCDEF).set 1 0 0xFEDCBA9876543210).set 3 0 0x1122334455667788

/-- The same run at its FORMAT step, with the lanes of §5. -/
def formatting : State := { lastRound with phase := .format, lanes := formatterLanes }

/-- A PERMUTE run at its last ROUND step. -/
def permuting : State :=
  { State.reset with busy := true, phase := .round, rnd := 23, ctx := { RunContext.empty with op := .permute } }

/-- Word w of DIGEST_HEX as the host reads it. -/
def hexWord (s : State) (w : Nat) : Word := memRead s (0x200 + 8 * w)

/-! ### WellFormed: what each check refuses -/

/-- R7: 248 is below the bound, 257 is no multiple of 8, 65544 is above; 256, 4096 and 65536 are legal. -/
theorem test_wellFormed_msgCap :
    legalMsgCap 248 = false ∧ legalMsgCap 257 = false ∧ legalMsgCap 65544 = false ∧
    legalMsgCap 256 = true ∧ legalMsgCap 4096 = true ∧ legalMsgCap 65536 = true := by decide

/-- R82, R83, R85: RSV0, RSV1, PAD 2 and 3, OP 0 and 4, and a PERMUTE or CLEAR with a field set are refused. -/
theorem test_wellFormed_fields :
    (⟨1, 0, 1, 0, 0⟩ : CommandFields).wellFormed = false ∧ (⟨1, 0, 0, 0, 1⟩ : CommandFields).wellFormed = false ∧
    (⟨1, 0, 0, 2, 0⟩ : CommandFields).wellFormed = false ∧ (⟨1, 0, 0, 3, 0⟩ : CommandFields).wellFormed = false ∧
    (⟨0, 0, 0, 0, 0⟩ : CommandFields).wellFormed = false ∧ (⟨4, 0, 0, 0, 0⟩ : CommandFields).wellFormed = false ∧
    (⟨2, 1, 0, 0, 0⟩ : CommandFields).wellFormed = false ∧ (⟨2, 0, 0, 1, 0⟩ : CommandFields).wellFormed = false ∧
    (⟨3, 1, 0, 0, 0⟩ : CommandFields).wellFormed = false ∧ (⟨3, 0, 0, 1, 0⟩ : CommandFields).wellFormed = false ∧
    (⟨1, 3, 0, 1, 0⟩ : CommandFields).wellFormed = true := by decide

/-- R53: 0x021 and 0x019 are misaligned. -/
theorem test_wellFormed_offset :
    alignedOffset 0x021 = false ∧ alignedOffset 0x019 = false ∧ alignedOffset 0x020 = true := by decide

/-! ### Decoding: words written out bit by bit from R82 (RSV1, PAD, RSV0, VARIANT, OP) -/

theorem test_decode_hash_sha3 :
    decode (0#54 ++ 0b00#2 ++ 0b00#2 ++ 0b00#2 ++ 0b0001#4) = .ok .hashSha3_224 ∧
    decode (0#54 ++ 0b00#2 ++ 0b00#2 ++ 0b01#2 ++ 0b0001#4) = .ok .hashSha3_256 ∧
    decode (0#54 ++ 0b00#2 ++ 0b00#2 ++ 0b10#2 ++ 0b0001#4) = .ok .hashSha3_384 ∧
    decode (0#54 ++ 0b00#2 ++ 0b00#2 ++ 0b11#2 ++ 0b0001#4) = .ok .hashSha3_512 := by decide

theorem test_decode_hash_keccak :
    decode (0#54 ++ 0b01#2 ++ 0b00#2 ++ 0b00#2 ++ 0b0001#4) = .ok .hashKeccak_224 ∧
    decode (0#54 ++ 0b01#2 ++ 0b00#2 ++ 0b01#2 ++ 0b0001#4) = .ok .hashKeccak_256 ∧
    decode (0#54 ++ 0b01#2 ++ 0b00#2 ++ 0b10#2 ++ 0b0001#4) = .ok .hashKeccak_384 ∧
    decode (0#54 ++ 0b01#2 ++ 0b00#2 ++ 0b11#2 ++ 0b0001#4) = .ok .hashKeccak_512 := by decide

theorem test_decode_permute_clear :
    decode (0#54 ++ 0b00#2 ++ 0b00#2 ++ 0b00#2 ++ 0b0010#4) = .ok .permute ∧
    decode (0#54 ++ 0b00#2 ++ 0b00#2 ++ 0b00#2 ++ 0b0011#4) = .ok .clear := by decide

/-- Why the decoder refuses a word, if it does. -/
def refusal? (w : Nat) : Option Illegal :=
  match decode (BitVec.ofNat 64 w) with
  | .error e => some e
  | .ok _ => none

/-- 95_test_vectors.md §7.1: the illegal words and their codes. -/
theorem test_decode_illegal :
    (∀ w ∈ [0x0, 0x41, 0x81, 0x391, 0x401, 0x1001, 0x8000000000000001, 0x12, 0x82, 0x102, 0x202, 0x13, 0x4, 0xF,
        0xFFFFFFFFFFFFFFFF], refusal? w = some .cmd) ∧
    (∀ w ∈ [0x201, 0x231, 0x301, 0x211, 0x311], refusal? w = some .pad) := by decide

/-! ### Commands -/

/-- 95_test_vectors.md §7.1: STATUS after each of the ten legal words, from reset. -/
theorem test_status_after_legal_words :
    (∀ w ∈ [0x001, 0x011, 0x021, 0x031, 0x101, 0x111, 0x121, 0x131, 0x002], statusAfter State.reset w = some 0x01) ∧
    statusAfter State.reset 0x003 = some 0x00 := by decide

/-- 95_test_vectors.md §7.1: STATUS after illegal words, from reset. -/
theorem test_status_after_illegal_words :
    (∀ w ∈ [0x0, 0x41, 0x391, 0x401, 0x8000000000000001, 0x12, 0x202, 0x13, 0xF], statusAfter State.reset w = some 0x10) ∧
    (∀ w ∈ [0x201, 0x231, 0x301], statusAfter State.reset w = some 0x20) := by decide

/-- 95_test_vectors.md §7.2: the LEN check, MSG_CAP = 4096. -/
theorem test_len_check :
    statusAfter (withLen 4096) 0x11 = some 0x01 ∧ statusAfter (withLen 4097) 0x11 = some 0x30 ∧
    statusAfter (withLen 0x8000000000000000) 0x11 = some 0x30 ∧ statusAfter (withLen 4097) 0x201 = some 0x20 ∧
    statusAfter (withLen 4097) 0x2 = some 0x01 := by decide

/-- R170, R171, R104: the context that each HASH word latches, LEN = 200 (nblk from the §6 rows of 200 bytes). -/
theorem test_latched_context :
    (∀ p ∈ ([(0x001, ⟨.hash, 0, 0, 144, 224, 0x06, 200, 2⟩), (0x011, ⟨.hash, 1, 0, 136, 256, 0x06, 200, 2⟩),
        (0x021, ⟨.hash, 2, 0, 104, 384, 0x06, 200, 2⟩), (0x031, ⟨.hash, 3, 0, 72, 512, 0x06, 200, 3⟩),
        (0x101, ⟨.hash, 0, 1, 144, 224, 0x01, 200, 2⟩), (0x111, ⟨.hash, 1, 1, 136, 256, 0x01, 200, 2⟩),
        (0x121, ⟨.hash, 2, 1, 104, 384, 0x01, 200, 2⟩), (0x131, ⟨.hash, 3, 1, 72, 512, 0x01, 200, 3⟩)] :
          List (Nat × RunContext)),
      (next? (step ((withLen 200).withFetchWord 64 p.1))).map (·.ctx) = some p.2) := by decide

/-- 95_test_vectors.md §7.4: what the host's writes do to a busy block. -/
theorem test_busy_rejections :
    statusAfter hashing 0x3 = some 0x41 ∧ statusAfter hashing 0x0 = some 0x41 ∧
    (next? (memWrite 0x020 5 hashing)).map (fun t => (statusWord t, t.len)) = some (0x51, 3) ∧
    (next? (memWrite 0x10000 5 hashing)).map (fun t => (statusWord t, t.msg)) =
      some (0x51, [(0, 0x61), (1, 0x62), (2, 0x63)]) ∧
    (next? (memWrite 0x018 0 hashing)).map statusWord = some 0x01 := by decide

/-- R135: CLEAR zeroes A, RESULT and DIGEST_HEX and keeps LEN and MSG. -/
theorem test_clear_keeps_len_and_msg :
    (next? (exec .clear { abc with result := 5, lanes := formatterLanes, done := true })).map
      (fun t => decide (t.result = 0 ∧ t.lanes = Lanes.zero ∧ statusWord t = 0 ∧ t.len = 3 ∧ t.msg = abc.msg)) =
    some true := by decide +kernel

/-! ### Host reads and writes (95_test_vectors.md §7.3) -/

theorem test_reads_after_reset :
    memRead State.reset 0x000 = 0x4B45434316000007 ∧ memRead State.reset 0x008 = 0x1000 ∧
    (∀ off ∈ [0x010, 0x018, 0x020, 0x028, 0x030, 0x019, 0x11000, 0x100, 0x200], memRead State.reset off = 0) := by
  decide +kernel

theorem test_writes_after_reset :
    (next? (memWrite 0x000 5 State.reset)).map (memRead · 0x000) = some 0x4B45434316000007 ∧
    (next? (memWrite 0x021 5 State.reset)).map (memRead · 0x020) = some 0 ∧
    (next? (memWrite 0x020 0x1234 State.reset)).map (memRead · 0x020) = some 0x1234 ∧
    (next? (memWrite 0x10008 0x0807060504030201 State.reset)).map
      (fun t => (memRead t 0x10008, msgByte t 8, msgByte t 15)) = some (0x0807060504030201, 0x01, 0x08) := by
  decide +kernel

/-- R27, R44: a written word lies in canonical form, whatever the order of the writes. -/
theorem test_memory_canonical :
    Memory.wf 4096 (Memory.insertWord (Memory.insertWord [] 8 1) 0 2) = true ∧
    Memory.insertWord (Memory.insertWord [] 8 1) 0 2 = Memory.insertWord (Memory.insertWord [] 0 2) 8 1 := by
  decide +kernel

/-! ### The permutation (95_test_vectors.md §2) -/

theorem test_rotl :
    rotl64 0x8000000000000001 1 = 0x0000000000000003 ∧ rotl64 0x123 64 = 0x123 ∧ rotl64 0x123 0 = 0x123 ∧
    rotl64 0x8000000000000000 36 = 0x0000000800000000 := by decide

theorem test_theta :
    theta (Lanes.zero.set 0 0 0x8000000000000001) =
      ⟨⟨0x8000000000000001, 0x8000000000000001, 0, 0, 3⟩, ⟨0, 0x8000000000000001, 0, 0, 3⟩,
       ⟨0, 0x8000000000000001, 0, 0, 3⟩, ⟨0, 0x8000000000000001, 0, 0, 3⟩, ⟨0, 0x8000000000000001, 0, 0, 3⟩⟩ ∧
    theta Lanes.zero = Lanes.zero := by decide +kernel

theorem test_rhoPi :
    rhoPi (Lanes.zero.set 1 0 1) = Lanes.zero.set 0 2 2 ∧
    rhoPi (Lanes.zero.set 0 1 0x8000000000000000) = Lanes.zero.set 1 3 0x0000000800000000 ∧
    rhoPi (Lanes.zero.set 0 0 0x123) = Lanes.zero.set 0 0 0x123 := by decide +kernel

theorem test_chi :
    chi (Lanes.zero.set 2 0 1) = (Lanes.zero.set 0 0 1).set 2 0 1 ∧
    chi (Lanes.zero.set 1 0 0xFFFFFFFFFFFFFFFF) =
      (Lanes.zero.set 1 0 0xFFFFFFFFFFFFFFFF).set 4 0 0xFFFFFFFFFFFFFFFF := by decide +kernel

theorem test_iota :
    iota Lanes.zero 0 = Lanes.zero.set 0 0 0x0000000000000001 ∧
    iota Lanes.zero 23 = Lanes.zero.set 0 0 0x8000000080008008 := by decide +kernel

/-- 95_test_vectors.md §2.4: lanes 0 and 24 of Keccak-f[1600](0). -/
theorem test_keccakF_of_zero :
    ((keccakF Lanes.zero).lane 0, (keccakF Lanes.zero).lane 24) = (0xF1258F7940E1DDE7, 0xEAF1FF7B5CECA249) := by
  decide +kernel

/-! ### Padding, absorb and format (95_test_vectors.md §3, §4, §5) -/

/-- §3: (L, R, q, nblk). -/
theorem test_padding_lengths :
    ∀ p ∈ [(0, 136, 136, 1), (3, 72, 69, 1), (134, 136, 2, 1), (135, 136, 1, 1), (136, 136, 136, 2), (137, 136, 135, 2),
        (144, 144, 144, 2), (103, 104, 1, 1), (200, 72, 16, 3), (4096, 136, 120, 31)],
      (padLength p.1 p.2.1, blockCount p.1 p.2.1) = p.2.2 := by decide

/-- §3: the padding bytes of L = 134 and 135 at R = 136, and of L = 3 at R = 72. -/
theorem test_padding_bytes :
    padBytes 134 136 0x06 = [0x06, 0x80] ∧ padBytes 135 136 0x06 = [0x86] ∧ padBytes 135 136 0x01 = [0x81] ∧
    padBytes 3 72 0x06 = [0x06] ++ List.replicate 67 0x00 ++ [0x80] := by decide

/-- §4: the first ABSORB step of hash.sha3_256 of "abc". -/
theorem test_absorb_abc :
    (engineStep hashing).lanes = (Lanes.zero.set 0 0 0x0000000006636261).set 1 3 0x8000000000000000 ∧
    (engineStep hashing).phase = .round := by decide +kernel

/-- §4: the first ABSORB step of hash.sha3_512 of the empty message. -/
theorem test_absorb_empty :
    (engineStep { State.reset with busy := true, phase := .absorb, ctx := ⟨.hash, 3, 0, 72, 512, 0x06, 0, 1⟩ }).lanes =
      (Lanes.zero.set 0 0 0x06).set 3 1 0x8000000000000000 := by decide +kernel

/-- §5: FORMAT, N = 256, and the RESULT of hash.sha3_256 with nblk = 1 (§6). -/
theorem test_format :
    [0, 1, 2, 3, 4, 5, 6, 7, 8, 15].map (hexWord (engineStep formatting)) =
      [0x3938626164636665, 0x3130333235343736, 0x3637343532333031, 0x6566636461623839, 0x3030303030303030,
       0x3030303030303030, 0x3535363637373838, 0x3131323233333434, 0, 0] ∧
    (engineStep formatting).result = 0x0000000100000140 ∧ statusWord (engineStep formatting) = 0x02 := by
  decide +kernel

/-- §5: N = 224 cuts lane 3 halfway. -/
theorem test_format_224 :
    [6, 7].map (hexWord { State.reset with digestHex := formatHex formatterLanes 224 }) = [0x3535363637373838, 0] := by
  decide +kernel

/-! ### Where the sequencer goes (R141) -/

theorem test_last_round :
    ((engineStep lastRound).phase = .format ∧ (engineStep lastRound).busy = true) ∧
    ((engineStep permuting).phase = .idle ∧ statusWord (engineStep permuting) = 0x02) ∧
    ((engineStep { lastRound with ctx := { lastRound.ctx with nblk := 2 } }).phase = .absorb ∧
      (engineStep { lastRound with ctx := { lastRound.ctx with nblk := 2 } }).blk = 1) := by decide +kernel

/-- R200, §7.5: reset during a run, MSG unchanged. -/
theorem test_reset_during_run :
    (next? (step { hashing with schedule := [.reset] })).map (fun t => (statusWord t, t.len, t.phase, t.msg)) =
      some (0, 0, .idle, [(0, 0x61), (1, 0x62), (2, 0x63)]) := by decide

/-! ### Witnesses: states and operands that meet the hypotheses of each statement, a boundary value for each clause -/

/-- An outcome that is a next state is `.next` of some state. -/
theorem exists_next {o : Host.Outcome State Fault Refusal} (h : (next? o).isSome = true) : ∃ t, o = .next t := by
  cases o with
  | next t => exact ⟨t, rfl⟩
  | fault r => cases r
  | refused r => cases h

/-- A block whose registers hold nothing yet has an empty digest. -/
theorem digestOk_of_zero {s : State} (hr : s.result = 0) (hd : s.digestHex = Vector.replicate 128 0) : DigestOk s := by
  intro j; rw [hr, hd]; simp [resultHexlen]

theorem inv_abc : Inv abc :=
  ⟨by decide, by decide, by decide, by decide, by decide, trivial, .inl rfl, digestOk_of_zero rfl rfl⟩

theorem hashRunOk_hashing : HashRunOk hashing := ⟨rfl, by decide, rfl, rfl, rfl, by decide, by decide, by decide⟩

theorem inv_hashing : Inv hashing :=
  ⟨by decide, by decide, by decide, by decide, by decide, hashRunOk_hashing, .inl rfl, digestOk_of_zero rfl rfl⟩

theorem inv_lastRound : Inv lastRound :=
  ⟨by decide, by decide, by decide, by decide, by decide, .inr ⟨rfl, by decide, rfl, rfl, rfl, by decide, by decide, by decide⟩,
    .inl rfl, digestOk_of_zero rfl rfl⟩

theorem inv_formatting : Inv formatting :=
  ⟨by decide, by decide, by decide, by decide, by decide,
    ⟨⟨rfl, by decide, rfl, rfl, rfl, by decide, by decide, by decide⟩, by decide, rfl⟩, .inl rfl, digestOk_of_zero rfl rfl⟩

theorem inv_permuting : Inv permuting :=
  ⟨by decide, by decide, by decide, by decide, by decide, .inl rfl, .inl rfl, digestOk_of_zero rfl rfl⟩

/-- The end of a PERMUTE: idle with DONE = 1. -/
def doneIdle : State := { State.reset with done := true }

theorem inv_doneIdle : Inv doneIdle :=
  ⟨by decide, by decide, by decide, by decide, by decide, trivial, .inl rfl, digestOk_of_zero rfl rfl⟩

theorem witness_OnlyTheTenTableWordsAreLegal :
    (Instr.hashKeccak_512, (0x131 : Word)) ∈ commandTable ∧ decode 0x131 = .ok .hashKeccak_512 ∧
    (0x131 : Word) &&& 0xFFFFFFFFFFFFFCCF = 0x1 ∧ (0x131 : Word).extractLsb' 8 2 = 1 := by decide

theorem witness_DecodeAndEncodeAgree : decode 0x3 = .ok .clear := by decide

theorem witness_IllegalWordsAreRejectedByShape :
    (hashShaped 0x201 ∧ (0x201 : Word).extractLsb' 8 2 = 2) ∧ (hashShaped 0x331 ∧ (0x331 : Word).extractLsb' 8 2 = 3) ∧
    ((0xF : Word).extractLsb' 0 4 ≠ 1 ∧ (0xF : Word).extractLsb' 0 4 ≠ 2 ∧ (0xF : Word).extractLsb' 0 4 ≠ 3) ∧
    ((0x8000000000000001 : Word).extractLsb' 0 4 = 1 ∧ (0x8000000000000001 : Word).extractLsb' 10 54 ≠ 0) ∧
    ((0x12 : Word).extractLsb' 0 4 = 2 ∧ (0x12 : Word).extractLsb' 4 60 ≠ 0) ∧
    State.reset.busy = false ∧ decode 0x0 = .error .cmd ∧ decode 0x201 = .error .pad := by
  unfold hashShaped; decide

theorem witness_StepTakesTheNextTurn :
    ({ hashing with schedule := [.host (.read 0x018)] } : State).schedule = .host (.read 0x018) :: [] ∧
    ({ hashing with schedule := [.host (.write 0x020 5)] } : State).schedule = .host (.write 0x020 5) :: [] ∧
    ({ hashing with schedule := [.engine] } : State).schedule = .engine :: [] ∧
    ({ hashing with schedule := [.reset] } : State).schedule = .reset :: [] ∧ hashing.schedule = [] := by decide

theorem witness_StepRunsTheDecodedCommand :
    decode 0x11 = .ok .hashSha3_256 ∧
    ({ abc with schedule := [.host (.write 0x010 0x11)] } : State).schedule = .host (.write 0x010 0x11) :: [] := by decide

theorem witness_ReadAnswersByTheAddressMap :
    legalMsgCap State.reset.cap = true ∧ 8 * 0 < State.reset.cap ∧ 8 * 511 < State.reset.cap ∧
    legalMsgCap (State.powerOn 65536 7).cap = true ∧ 8 * 8191 < (State.powerOn 65536 7).cap ∧ 0x01F % 8 ≠ 0 ∧
    (∀ off ∈ [0x030, 0x0FF, 0x1C8, 0x1FF, 0x280, 0xFFFF, 0x11000, 0x1FFFF], unmapped 4096 off) := by
  unfold unmapped; decide

theorem witness_ReadsHaveNoSideEffects :
    hashing.busy = true ∧
    ({ hashing with schedule := [.host (.read 0x100)] } : State).schedule = .host (.read 0x100) :: [] ∧
    (∀ off ∈ [0x018, 0x0F8, 0x1C8, 0x10000], ¬(hashing.busy = true ∧ 0x100 ≤ off ∧ off < 0x1C8)) := by decide

theorem witness_WriteEffectsByOffset :
    legalMsgCap hashing.cap = true ∧ hashing.busy = true ∧ legalMsgCap abc.cap = true ∧ abc.busy = false ∧
    8 * 511 < abc.cap ∧ 0x021 % 8 ≠ 0 ∧ 0x20000 ≤ 0x20000 ∧
    (∀ off ∈ [0x000, 0x008, 0x018, 0x028, 0x100, 0x1C0, 0x200, 0x278], readOnly off) ∧
    (∀ off ∈ [0x030, 0x0F8, 0x1C8, 0x1F8, 0x280, 0xFFF8, 0x11000], unmapped 4096 off) := by
  unfold readOnly unmapped; decide

theorem witness_InertAccessesRecordNoError :
    0x019 % 8 ≠ 0 ∧ unmapped hashing.cap 0x030 ∧ unmapped hashing.cap 0x11000 ∧ readOnly 0x000 ∧ readOnly 0x27F := by
  unfold readOnly unmapped; decide

theorem witness_MsgWordReadsBack :
    legalMsgCap abc.cap = true ∧ 8 * 511 < abc.cap ∧ abc.busy = false ∧ 510 ≠ 511 ∧
    ({ abc with schedule := [.host (.write (symMSG 511) 5), .host (.read (symMSG 511))] } : State).schedule =
      .host (.write (symMSG 511) 5) :: .host (.read (symMSG 511)) :: [] := by decide

theorem witness_CommandWriteByCases :
    hashing.busy = true ∧ abc.busy = false ∧ decode 0x0 = .error .cmd ∧ decode 0x301 = .error .pad ∧
    decode 0x2 = .ok .permute := by decide

theorem witness_OneCodeByPriority :
    ({ hashing with schedule := [.reset] } : State).schedule = .reset :: [] ∧
    hashing.busy = true ∧ abc.busy = false ∧ (¬hashShaped 0x391 ∧ (0x391 : Word) ≠ 2 ∧ (0x391 : Word) ≠ 3) ∧
    (hashShaped 0x201 ∧ 2 ≤ ((0x201 : Word).extractLsb' 8 2).toNat) ∧
    (hashShaped 0x131 ∧ ((0x131 : Word).extractLsb' 8 2).toNat ≤ 1) ∧
    (withLen 4097).cap < (withLen 4097).len.toNat ∧ (withLen 4097).busy = false ∧
    (withLen 4096).len.toNat ≤ (withLen 4096).cap ∧ (withLen 4096).busy = false := by
  unfold hashShaped; decide

theorem witness_RejectionIsPrecise :
    abc.busy = false ∧ memWrite 0x010 0x201 abc = .next { abc with errcode := 2 } ∧
    ({ abc with errcode := 2 } : State).errcode ≠ 0 := ⟨rfl, rfl, by decide⟩

theorem witness_HashStartsUnlessLenExceedsCapacity :
    (⟨.hashKeccak_512, 0x131, 3, 1, 72, 512, 0x01⟩ : HashRow) ∈ hashRows ∧
    ((withLen 4096).busy = false ∧ (withLen 4096).len.toNat ≤ (withLen 4096).cap) ∧
    ((withLen 4097).busy = false ∧ (withLen 4097).cap < (withLen 4097).len.toNat) ∧
    legalMsgCap (withLen 4096).cap = true := ⟨by simp [hashRows], by decide, by decide, by decide⟩

theorem witness_LatchedBlockCountIsExact :
    (⟨.hashSha3_512, 0x31, 3, 0, 72, 512, 0x06⟩ : HashRow) ∈ hashRows ∧
    legalMsgCap (withLen 4096).cap = true ∧ (withLen 4096).busy = false ∧
    (withLen 4096).len.toNat ≤ (withLen 4096).cap :=
  ⟨by simp [hashRows], by decide, by decide, by decide⟩

theorem witness_PermuteStarts : abc.busy = false := rfl

theorem witness_ClearZeroesWithinTheWrite :
    abc.busy = false ∧ hashing.busy = true ∧ (0x13 : Word).extractLsb' 0 4 = 3 ∧ (0x13 : Word).extractLsb' 4 60 ≠ 0 := by
  decide

theorem witness_BusyRejections :
    hashing.busy = true ∧ legalMsgCap hashing.cap = true ∧ 8 * 511 < hashing.cap ∧ readOnly 0x018 ∧
    unmapped hashing.cap 0x030 ∧
    ({ hashing with schedule := [.host (.read 0x018)] } : State).schedule = .host (.read 0x018) :: [] := by
  unfold readOnly unmapped; decide

theorem witness_ErrcodeChangesOnlyByHostOrReset :
    (∃ t, step { hashing with errcode := 4, schedule := [.reset] } = .next t ∧ t.errcode ≠ 4) ∧
    (∃ t, step { abc with schedule := [.host (.write 0x010 0x0)] } = .next t ∧ t.errcode ≠ abc.errcode) ∧
    (∃ t, step { hashing with schedule := [.host (.write 0x10FF8 5)] } = .next t ∧ t.errcode ≠ hashing.errcode) ∧
    (∃ t, exec .hashSha3_224 (withLen 4097) = .next t ∧ t.errcode = 3) ∧ (withLen 4097).busy = false :=
  ⟨⟨_, rfl, by decide⟩, ⟨_, rfl, by decide⟩, ⟨_, rfl, by decide⟩, ⟨_, rfl, by decide⟩, rfl⟩

theorem witness_CommandFrames :
    (∃ t, exec .permute abc = .next t) ∧ (∃ t, exec .clear abc = .next t) ∧ (∃ t, exec .hashSha3_384 abc = .next t) :=
  ⟨⟨_, rfl⟩, ⟨_, rfl⟩, ⟨_, rfl⟩⟩

theorem witness_RotlMovesBitsLeft : 64 % 64 = 0 ∧ 63 % 64 ≠ 0 ∧ 1 % 64 ≠ 0 ∧ 63 < 64 := by decide

theorem witness_ThetaAddsColumnParities :
    let a := (Lanes.zero.set 0 0 1).set 0 1 1
    a ≠ Lanes.zero ∧ ∀ x : Fin 5, a.get x 0 ^^^ a.get x 1 ^^^ a.get x 2 ^^^ a.get x 3 ^^^ a.get x 4 = 0 := by
  decide +kernel

theorem witness_ChiMixesEachRowAlone :
    (∀ x : Fin 5, (Lanes.ofFn fun _ y => if y = 4 then 0xFFFFFFFFFFFFFFFF else 0).get x 4 = 0xFFFFFFFFFFFFFFFF) ∧
    (∀ x : Fin 5, (Lanes.ofFn fun _ y => if y = 4 then 0xFFFFFFFFFFFFFFFF else 0).get x 0 = 0) := by decide +kernel

theorem witness_PadLengthIsBetweenOneAndRate : 0 < 136 ∧ 0 % 136 = 0 ∧ 135 % 136 = 136 - 1 := by decide

theorem witness_PaddedFunctionReadsThePaddedMessage :
    0 < 136 ∧ padLength (List.replicate 135 (0x00 : Byte)).length 136 = 1 ∧
    2 ≤ padLength (List.replicate 134 (0x00 : Byte)).length 136 ∧ 2 ≤ padLength ([] : List Byte).length 136 ∧
    (∀ j : Nat, j < (List.replicate 135 (0x00 : Byte)).length →
      (fun _ => (0x00 : Byte)) j = (List.replicate 135 (0x00 : Byte)).getD j 0) := by
  refine ⟨by decide, by decide +kernel, by decide +kernel, by decide, fun j _ => ?_⟩
  generalize 135 = n
  simp only [List.getD, List.getElem?_replicate]
  split <;> rfl

theorem witness_PaddingsDifferInOneByte :
    0 < 136 ∧ 2 ≤ padLength ([] : List Byte).length 136 ∧ padLength (List.replicate 135 (0x00 : Byte)).length 136 = 1 ∧
    1 ≠ ([] : List Byte).length := by decide +kernel

theorem witness_AbsorbStepXorsTheRateLanes :
    Inv hashing ∧ hashing.phase = .absorb ∧
    (1 : Fin 5).val + 5 * (3 : Fin 5).val < hashing.ctx.R.toNat / 8 ∧
    hashing.ctx.R.toNat / 8 ≤ (2 : Fin 5).val + 5 * (3 : Fin 5).val := ⟨inv_hashing, by decide⟩

/-- The run of hash.sha3_512 over the word 0x0807060504030201, L = 8. -/
def hashingWord : State :=
  { State.reset with
    len := 8, busy := true, phase := .absorb, ctx := ⟨.hash, 3, 0, 72, 512, 0x06, 8, 1⟩
    msg := Memory.insertWord [] 0 0x0807060504030201 }

theorem witness_HostWordIsTheAbsorbedLane :
    hashingWord.phase = .absorb ∧ (0 : Fin 5).val + 5 * (0 : Fin 5).val < hashingWord.ctx.R.toNat / 8 ∧
    hashingWord.blk.toNat * hashingWord.ctx.R.toNat + 8 * ((0 : Fin 5).val + 5 * (0 : Fin 5).val) + 8 ≤
      hashingWord.ctx.L.toNat ∧
    (∀ b : Fin 8, msgByte hashingWord (hashingWord.blk.toNat * hashingWord.ctx.R.toNat +
      8 * ((0 : Fin 5).val + 5 * (0 : Fin 5).val) + b.val) = byteOf 0x0807060504030201 b.val) := by
  decide +kernel

theorem witness_RoundStepSequencesTheRun :
    (({ lastRound with rnd := 22 } : State).phase = .round ∧ ({ lastRound with rnd := 22 } : State).rnd.val < 23 ∧
      (23 : Fin 24).val = ({ lastRound with rnd := 22 } : State).rnd.val + 1) ∧
    (permuting.phase = .round ∧ permuting.rnd.val = 23 ∧ permuting.ctx.op = .permute) ∧
    (lastRound.rnd.val = 23 ∧ lastRound.ctx.op ≠ .permute ∧ ¬(lastRound.blk.toNat + 1 < lastRound.ctx.nblk.toNat)) ∧
    (lastRound.blk.toNat + 1 < ({ lastRound with ctx := { lastRound.ctx with nblk := 2 } } : State).ctx.nblk.toNat) := by
  decide

theorem witness_FormatStepPublishesTheResult : formatting.phase = .format := rfl

theorem witness_EngineHasAStepExactlyWhenBusy :
    (Inv hashing ∧ hashing.busy = true) ∧ (Inv abc ∧ abc.phase = .idle ∧ abc.schedule = []) :=
  ⟨⟨inv_hashing, rfl⟩, inv_abc, rfl, rfl⟩

theorem witness_BytesBeyondTheLengthHaveNoEffect :
    ∀ i : Nat, i < hashing.ctx.L.toNat →
      msgByte { hashing with msg := [(0, 0x61), (1, 0x62), (2, 0x63), (3, 0xFF)], msgDraw := 7 } i = msgByte hashing i := by
  intro i hi
  have hi' : i < 3 := hi
  obtain rfl | rfl | rfl : i = 0 ∨ i = 1 ∨ i = 2 := by omega
  all_goals rfl

theorem witness_FormatHexWritesNibblesThenZeros :
    (27 : Fin 200).val < (outputBits 0).toNat / 8 ∧ (63 : Fin 200).val < (outputBits 3).toNat / 8 ∧
    (outputBits 0).toNat / 4 ≤ (56 : Fin 128).val ∧ (outputBits 0).toNat / 4 ≤ (127 : Fin 128).val := by decide

theorem witness_CompletedHashHasItsLength :
    Inv formatting ∧ formatting.phase = .format ∧
    (63 : Fin 128).val < (resultHexlen (engineStep formatting).result).toNat := ⟨inv_formatting, rfl, by decide +kernel⟩

theorem witness_ResetZeroesAllButMsg :
    ({ hashing with schedule := [.reset] } : State).schedule = .reset :: [] := rfl

theorem witness_RegistersReadResetValues : 0x000 < 0x10000 ∧ 0xFFFF < 0x10000 := by decide

theorem witness_PowerOnMeetsTheInvariant : legalMsgCap 256 = true ∧ legalMsgCap 65536 = true := by decide

theorem witness_EveryStepKeepsTheInvariant :
    (Inv hashing ∧ ∃ t, step hashing = .next t) ∧ (Inv lastRound ∧ ∃ t, step lastRound = .next t) ∧
    (Inv abc ∧ ∃ t, step (abc.withFetchWord 64 0x11) = .next t) :=
  ⟨⟨inv_hashing, _, rfl⟩, ⟨inv_lastRound, _, rfl⟩, inv_abc, _, rfl⟩

theorem witness_BusyExactlyWhenPhaseIsNotIdle :
    legalMsgCap 256 = true ∧
    ∃ t, run 2 { State.powerOn 256 7 with schedule := [.host (.write 0x010 2), .engine] } = .next t :=
  ⟨by decide, exists_next (by decide +kernel)⟩

theorem witness_OnlyTheseStepsWriteLanesAndResults :
    (∃ t, step hashing = .next t ∧ t.lanes ≠ hashing.lanes) ∧
    (∃ t, step formatting = .next t ∧ t.result ≠ formatting.result ∧ t.digestHex ≠ formatting.digestHex) :=
  ⟨⟨_, rfl, by decide +kernel⟩, ⟨_, rfl, by decide +kernel, by decide +kernel⟩⟩

theorem witness_OnlyIdleHostWritesChangeLenAndMsg :
    (∃ t, step { abc with schedule := [.host (.write 0x020 5)] } = .next t ∧ t.len ≠ abc.len) ∧
    (∃ t, step { abc with schedule := [.host (.write 0x10000 5)] } = .next t ∧ msgByte t 0 ≠ msgByte abc 0) :=
  ⟨⟨_, rfl, by decide⟩, ⟨_, rfl, by decide +kernel⟩⟩

theorem witness_RunContextIsConstantDuringARun :
    hashing.busy = true ∧ nextTurn hashing ≠ .reset ∧ ∃ t, step hashing = .next t := ⟨rfl, by decide, _, rfl⟩

theorem witness_DoneOutputEdges :
    (Inv formatting ∧ ∃ t, step formatting = .next t ∧ doneOut formatting = false ∧ doneOut t = true) ∧
    (Inv permuting ∧ ∃ t, step permuting = .next t ∧ doneOut permuting = false ∧ doneOut t = true) ∧
    (Inv doneIdle ∧ doneIdle.busy = false ∧
      ∃ t, step (doneIdle.withFetchWord 64 0x0) = .next t ∧ doneOut doneIdle = true ∧ doneOut t = false) :=
  ⟨⟨inv_formatting, _, rfl, rfl, rfl⟩, ⟨inv_permuting, _, rfl, rfl, rfl⟩, inv_doneIdle, rfl, _, rfl, rfl, rfl⟩

theorem witness_EveryRunEndsInItsStepCount :
    (Inv hashing ∧ hashing.busy = true ∧ 25 < engineStepsLeft hashing ∧ engineStepsLeft hashing = 26) ∧
    (Inv permuting ∧ permuting.busy = true ∧ engineStepsLeft permuting = 1) ∧
    (legalMsgCap (withLen 4096).cap = true ∧ (withLen 4096).len.toNat ≤ (withLen 4096).cap) :=
  ⟨⟨inv_hashing, rfl, by decide, by decide⟩, ⟨inv_permuting, rfl, by decide⟩, by decide⟩

theorem witness_HashRunComputesTheSponge :
    (legalMsgCap abc.cap = true ∧ abc.busy = false ∧ abc.len.toNat ≤ abc.cap) ∧
    (legalMsgCap (withLen 4096).cap = true ∧ (withLen 4096).busy = false ∧
      (withLen 4096).len.toNat ≤ (withLen 4096).cap) := by decide

theorem witness_PermuteRunAppliesKeccakF :
    abc.busy = false ∧ hashing.busy = true ∧ (0x12 : Word).extractLsb' 0 4 = 2 ∧ (0x12 : Word).extractLsb' 4 60 ≠ 0 := by
  decide

theorem witness_RunIsTheSameUnderEveryInterleaving :
    let turns : List Turn := [.host (.write 0x020 5), .engine, .host (.read 0x100)]
    Turn.reset ∉ turns ∧ (∀ n : Nat, n ≤ turns.count .engine → (engineSteps n hashing).busy = true) ∧
    ∃ u, run (turns.length + 1) { hashing with schedule := turns ++ [.engine] } = .next u := by
  refine ⟨by decide, ?_, exists_next (by decide +kernel)⟩
  intro n hn
  have hc : ([.host (.write 0x020 5), .engine, .host (.read 0x100)] : List Turn).count .engine = 1 := by decide
  rw [hc] at hn
  obtain rfl | rfl : n = 0 ∨ n = 1 := by omega
  all_goals rfl

/-- Two blocks that differ in MSG beyond LEN, in A, RESULT and MSG_CAP, and two interleavings. -/
theorem witness_HashRunsAreDeterministicAndIsolated :
    let s₁ : State := abc
    let s₂ : State := { abc with cap := 256, lanes := formatterLanes, result := 5, msg := abc.msg ++ [(3, 0xFF)] }
    let turns₁ : List Turn := List.replicate 25 .engine
    let turns₂ : List Turn := .host (.write 0x010 3) :: List.replicate 25 .engine
    let r : HashRow := ⟨.hashSha3_256, 0x11, 1, 0, 136, 256, 0x06⟩
    r ∈ hashRows ∧ legalMsgCap s₁.cap = true ∧ legalMsgCap s₂.cap = true ∧ s₁.busy = false ∧ s₂.busy = false ∧
    s₁.len = s₂.len ∧ s₁.len.toNat ≤ s₁.cap ∧ s₂.len.toNat ≤ s₂.cap ∧
    (∀ i : Nat, i < s₁.len.toNat → msgByte s₁ i = msgByte s₂ i) ∧
    Turn.reset ∉ turns₁ ∧ turns₁.count .engine = (s₁.len.toNat / r.rate + 1) * 25 ∧
    Turn.reset ∉ turns₂ ∧ turns₂.count .engine = (s₂.len.toNat / r.rate + 1) * 25 ∧
    ∃ t₁ t₂, exec r.instr s₁ = .next t₁ ∧ exec r.instr s₂ = .next t₂ ∧
      (∃ u₁, run (turns₁.length + 1) { t₁ with schedule := turns₁ ++ [.engine] } = .next u₁) ∧
      (∃ u₂, run (turns₂.length + 1) { t₂ with schedule := turns₂ ++ [.engine] } = .next u₂) := by
  refine ⟨by simp [hashRows], by decide, by decide, rfl, rfl, rfl, by decide, by decide, ?_, by decide, by decide,
    by decide, by decide, _, _, rfl, rfl, exists_next ?_, exists_next ?_⟩
  · intro i hi
    have hi' : i < 3 := hi
    obtain rfl | rfl | rfl : i = 0 ∨ i = 1 ∨ i = 2 := by omega
    all_goals rfl
  · decide +kernel
  · decide +kernel

theorem witness_LoadMsgPlacesTheMessage :
    legalMsgCap abc.cap = true ∧ abc.busy = false ∧ ([0x61, 0x62, 0x63] : List Byte).length ≤ abc.cap ∧
    (List.replicate 4096 (0 : Byte)).length ≤ abc.cap ∧ 2 < ([0x61, 0x62, 0x63] : List Byte).length := by
  refine ⟨by decide, rfl, by decide, ?_, by decide⟩
  rw [List.length_replicate]; decide

end Sys2Proof.Tests
end

section
/-! PROOFS. The host's accesses (R60, R61): an equation of `memWrite` for each class of offset, and what an inert offset
reads and keeps. -/

namespace Sys2Proof.Machine
open Sys2Proof.Spec

/-- R7, as arithmetic. -/
theorem legalMsgCap_iff (cap : Nat) : legalMsgCap cap = true ↔ 256 ≤ cap ∧ cap ≤ 65536 ∧ cap % 8 = 0 := by
  simp [legalMsgCap, and_assoc]

/-- The offset of a data write: LEN or a byte of the MSG window (R55). -/
def dataOffset (cap off : Nat) : Prop := off = 0x020 ∨ (0x10000 ≤ off ∧ off < 0x10000 + cap)

theorem dataOffset_msg {cap m : Nat} (hm : 8 * m < cap) : dataOffset cap (0x10000 + 8 * m) :=
  .inr ⟨by omega, by omega⟩

/-- Under a legal MSG_CAP the MSG window ends at or below the end of the block's space (R55). -/
theorem msgOffset_lt {cap m : Nat} (hcap : legalMsgCap cap = true) (hm : 8 * m < cap) :
    0x10000 + 8 * m < 0x20000 := by
  have ⟨_, hle, _⟩ := (legalMsgCap_iff cap).1 hcap
  omega

/-! ### Reads that answer 0 -/

theorem memRead_misaligned (s : State) {off : Nat} (h : off % 8 ≠ 0) : memRead s off = 0 :=
  if_pos (.inl h)

theorem memRead_unmapped (s : State) {off : Nat} (h : unmapped s.cap off) : memRead s off = 0 := by
  unfold unmapped at h
  unfold memRead
  split
  · rfl
  · simp (disch := omega) only [if_neg]

/-! ### Writes, by the class of their offset -/

theorem memWrite_cmd (v : Word) (s : State) : memWrite 0x010 v s = command v s := rfl

/-- R61, R183: an aligned data write is rejected while BUSY = 1. -/
theorem memWrite_data_busy {off : Nat} (v : Word) {s : State} (hal : off % 8 = 0) (hlt : off < 0x20000)
    (hdata : dataOffset s.cap off) (hb : s.busy = true) : memWrite off v s = .next (reject .busyWr s) := by
  unfold dataOffset at hdata
  unfold memWrite
  rw [if_neg (by omega), if_neg (by omega), if_pos hdata, if_pos hb]

theorem memWrite_len_idle (v : Word) {s : State} (hb : s.busy = false) :
    memWrite 0x020 v s = .next { s with len := v } := by
  simp [memWrite, hb]

theorem memWrite_msg_idle {m : Nat} (v : Word) {s : State} (hcap : legalMsgCap s.cap = true) (hm : 8 * m < s.cap)
    (hb : s.busy = false) : memWrite (0x10000 + 8 * m) v s = .next (writeMsgWord (8 * m) v s) := by
  have hlt := msgOffset_lt hcap hm
  unfold memWrite
  rw [if_neg (by omega), if_neg (by omega), if_pos (by omega), if_neg (by simp [hb]), if_neg (by omega),
    Nat.add_sub_cancel_left]

theorem memWrite_outside {off : Nat} (v : Word) (s : State) (h : off % 8 ≠ 0 ∨ 0x20000 ≤ off) :
    memWrite off v s = .next s := if_pos h

/-- A write to an offset that is neither CMD's nor a data offset is ignored (R57, R64). -/
theorem memWrite_ignored {off : Nat} (v : Word) (s : State) (hcmd : off ≠ 0x010) (hdata : ¬dataOffset s.cap off) :
    memWrite off v s = .next s := by
  unfold dataOffset at hdata
  unfold memWrite
  rw [if_neg hcmd, if_neg hdata, ite_self]

theorem memWrite_readOnly {off : Nat} (v : Word) (s : State) (h : readOnly off) : memWrite off v s = .next s := by
  unfold readOnly at h
  exact memWrite_ignored v s (by omega) (by unfold dataOffset; omega)

theorem memWrite_unmapped {off : Nat} (v : Word) (s : State) (h : unmapped s.cap off) : memWrite off v s = .next s := by
  unfold unmapped at h
  exact memWrite_ignored v s (by omega) (by unfold dataOffset; omega)

/-! ### The bytes of MSG after a word write -/

theorem msgByte_writeMsgWord_inside (i : Nat) (b : Fin 8) (v : Word) (s : State) :
    msgByte (writeMsgWord i v s) (i + b.val) = byteOf v b.val := by
  rw [msgByte_writeMsgWord, if_pos (by omega), Nat.add_sub_cancel_left]

theorem msgByte_writeMsgWord_outside {i j : Nat} (v : Word) (s : State) (h : j < i ∨ i + 8 ≤ j) :
    msgByte (writeMsgWord i v s) j = msgByte s j := by
  rw [msgByte_writeMsgWord, if_neg (by omega)]

end Sys2Proof.Machine
end

section
/-! PROOFS. The statements of spec/20_memory.md on what a host access does at every offset. -/

namespace Sys2Proof.Proofs
open Sys2Proof.Machine Sys2Proof.Spec

/-- Settles O9: the clauses are the equations of `memWrite`, one for each class of offset. -/
theorem writeEffectsByOffset : Obligations.WriteEffectsByOffset := by
  intro s v hcap
  refine ⟨memWrite_cmd v s, fun hb => ?lenBusy, fun hb => memWrite_len_idle v hb, fun m hm hb => ?msgBusy,
    fun m hm hb => ?msgIdle, fun off h => ?inert⟩
  case lenBusy => exact memWrite_data_busy v (by decide) (by decide) (.inl rfl) hb
  case msgBusy => exact memWrite_data_busy v (by omega) (msgOffset_lt hcap hm) (dataOffset_msg hm) hb
  case msgIdle =>
    exact ⟨writeMsgWord (8 * m) v s, memWrite_msg_idle v hcap hm hb, rfl,
      fun b => msgByte_writeMsgWord_inside (8 * m) b v s, fun _ hi => msgByte_writeMsgWord_outside v s hi⟩
  case inert =>
    obtain hmis | hhigh | hro | hun := h
    · exact memWrite_outside v s (.inl hmis)
    · exact memWrite_outside v s (.inr hhigh)
    · exact memWrite_readOnly v s hro
    · exact memWrite_unmapped v s hun

/-- Settles O10: no offset that is misaligned, unmapped or read-only reaches a write branch of R61, and the first two
reach no register of R60 either; BUSY and MSG_CAP play no part. -/
theorem inertAccessesRecordNoError : Obligations.InertAccessesRecordNoError := by
  intro s off v
  exact ⟨fun hmis => ⟨memRead_misaligned s hmis, memWrite_outside v s (.inl hmis)⟩,
    fun hun => ⟨memRead_unmapped s hun, memWrite_unmapped v s hun⟩, fun hro => memWrite_readOnly v s hro⟩

end Sys2Proof.Proofs
end

section
/-! PROOFS. The decoder (R87): its six outcomes by the shape of the word, the mask form of the HASH shape, and `encode`
as its inverse. -/

namespace Sys2Proof
open Sys2Proof.Machine Sys2Proof.Spec

/-! ### The shapes of a word (R82, R88) -/

/-- A word is a given OP value alone when that is its OP and bits [63:4] are 0. -/
theorem word_eq_iff_op (w : Word) (k : BitVec 4) :
    w = 0#60 ++ k ↔ w.extractLsb' 0 4 = k ∧ w.extractLsb' 4 60 = 0 := by
  constructor
  · rintro rfl
    exact ⟨BitVec.extractLsb'_append_eq_right, BitVec.extractLsb'_append_eq_left⟩
  · rintro ⟨hop, hrest⟩
    rw [word_eq_op w hrest, hop]

/-- R86: the mask 0xFFFFFFFFFFFFFCCF covers OP and the two reserved fields. -/
theorem mask_match_iff_hashShaped (w : Word) : w &&& 0xFFFFFFFFFFFFFCCF = 0x1 ↔ hashShaped w := by
  constructor
  · intro h
    have field : ∀ start len, (w.extractLsb' start len &&& (0xFFFFFFFFFFFFFCCF#64).extractLsb' start len) =
        (0x1#64).extractLsb' start len := fun start len => by
      rw [← BitVec.extractLsb'_and]; exact congrArg _ h
    exact ⟨(BitVec.and_allOnes).symm.trans (field 0 4), (BitVec.and_allOnes).symm.trans (field 6 2),
      (BitVec.and_allOnes).symm.trans (field 10 54)⟩
  · rintro ⟨hop, hrsv0, hrsv1⟩
    rw [word_eq_fields w, hop, hrsv0, hrsv1]
    generalize w.extractLsb' 8 2 = pad, w.extractLsb' 4 2 = var
    revert pad var; decide

/-- R88 lists the words that are neither HASH-shaped, PERMUTE nor CLEAR by their OP. -/
theorem cmdIllegalShape_iff (w : Word) :
    ((w.extractLsb' 0 4 ≠ 1 ∧ w.extractLsb' 0 4 ≠ 2 ∧ w.extractLsb' 0 4 ≠ 3) ∨
     (w.extractLsb' 0 4 = 1 ∧ (w.extractLsb' 6 2 ≠ 0 ∨ w.extractLsb' 10 54 ≠ 0)) ∨
     ((w.extractLsb' 0 4 = 2 ∨ w.extractLsb' 0 4 = 3) ∧ w.extractLsb' 4 60 ≠ 0)) ↔
    ¬hashShaped w ∧ w ≠ 2 ∧ w ≠ 3 := by
  have h2 : w = 2 ↔ _ := word_eq_iff_op w 2
  have h3 : w = 3 ↔ _ := word_eq_iff_op w 3
  simp only [ne_eq, h2, h3, hashShaped]
  by_cases op1 : w.extractLsb' 0 4 = 1
  · simp [op1, Decidable.imp_iff_not_or]
  by_cases op2 : w.extractLsb' 0 4 = 2
  · simp [op2]
  by_cases op3 : w.extractLsb' 0 4 = 3
  · simp [op3]
  · exact iff_of_true (.inl ⟨op1, op2, op3⟩) ⟨fun h => op1 h.1, fun h => op2 h.1, fun h => op3 h.1⟩

/-! ### What decoding can do -/

/-- The six outcomes of R87, with the words that have each. -/
theorem decode_cases (w : Word) :
    (hashShaped w ∧ w.extractLsb' 8 2 = 0 ∧ decode w = .ok (sha3Instr (w.extractLsb' 4 2))) ∨
    (hashShaped w ∧ w.extractLsb' 8 2 = 1 ∧ decode w = .ok (keccakInstr (w.extractLsb' 4 2))) ∨
    (hashShaped w ∧ (w.extractLsb' 8 2 = 2 ∨ w.extractLsb' 8 2 = 3) ∧ decode w = .error .pad) ∨
    (w = 2 ∧ decode w = .ok .permute) ∨
    (w = 3 ∧ decode w = .ok .clear) ∨
    (¬hashShaped w ∧ w ≠ 2 ∧ w ≠ 3 ∧ decode w = .error .cmd) := by
  by_cases hs : hashShaped w
  · have hd := decode_of_hash_shape hs
    obtain hp | hp | hp | hp := field2_cases (w.extractLsb' 8 2)
    · exact .inl ⟨hs, hp, by rw [hd, if_pos hp]⟩
    · exact .inr (.inl ⟨hs, hp, by rw [hd, hp]; rfl⟩)
    · exact .inr (.inr (.inl ⟨hs, .inl hp, by rw [hd, hp]; rfl⟩))
    · exact .inr (.inr (.inl ⟨hs, .inr hp, by rw [hd, hp]; rfl⟩))
  · have hd := decode_of_other_shape hs
    by_cases h2 : w = 2
    · exact .inr (.inr (.inr (.inl ⟨h2, by rw [hd, if_pos h2]⟩)))
    by_cases h3 : w = 3
    · exact .inr (.inr (.inr (.inr (.inl ⟨h3, by rw [hd, if_neg h2, if_pos h3]⟩))))
    · exact .inr (.inr (.inr (.inr (.inr ⟨hs, h2, h3, by rw [hd, if_neg h2, if_neg h3]⟩))))

/-- ILLEGAL(2) of R87. -/
theorem decode_eq_error_pad_iff (w : Word) :
    decode w = .error .pad ↔ hashShaped w ∧ (w.extractLsb' 8 2 = 2 ∨ w.extractLsb' 8 2 = 3) := by
  obtain ⟨-, hp, hd⟩ | ⟨-, hp, hd⟩ | ⟨hs, hp, hd⟩ | ⟨rfl, hd⟩ | ⟨rfl, hd⟩ | ⟨hs, -, -, hd⟩ := decode_cases w
  · simp [hd, hp]
  · simp [hd, hp]
  · exact iff_of_true hd ⟨hs, hp⟩
  · rw [hd]; simp
  · rw [hd]; simp
  · simp [hd, hs]

/-- ILLEGAL(1) of R87. -/
theorem decode_eq_error_cmd_iff (w : Word) :
    decode w = .error .cmd ↔ ¬hashShaped w ∧ w ≠ 2 ∧ w ≠ 3 := by
  obtain ⟨hs, -, hd⟩ | ⟨hs, -, hd⟩ | ⟨hs, -, hd⟩ | ⟨h2, hd⟩ | ⟨h3, hd⟩ | ⟨hs, h2, h3, hd⟩ := decode_cases w
  · simp [hd, hs]
  · simp [hd, hs]
  · simp [hd, hs]
  · rw [hd]; simp [h2]
  · rw [hd]; simp [h3]
  · exact iff_of_true hd ⟨hs, h2, h3⟩

/-! ### The encoder is the decoder's inverse (R82, R86) -/

theorem encode_sha3Instr (var : BitVec 2) :
    encode (sha3Instr var) = 0#54 ++ 0#2 ++ 0#2 ++ var ++ 1#4 := by
  revert var; decide

theorem encode_keccakInstr (var : BitVec 2) :
    encode (keccakInstr var) = 0#54 ++ 1#2 ++ 0#2 ++ var ++ 1#4 := by
  revert var; decide

theorem decode_encode (i : Instr) : decode (encode i) = .ok i := by
  cases i <;> rfl

theorem encode_of_decode {w : Word} {i : Instr} (h : decode w = .ok i) : encode i = w := by
  have hw := word_eq_fields w
  obtain ⟨⟨hop, hrsv0, hrsv1⟩, hp, hd⟩ | ⟨⟨hop, hrsv0, hrsv1⟩, hp, hd⟩ | ⟨-, -, hd⟩ | ⟨rfl, hd⟩ | ⟨rfl, hd⟩ |
    ⟨-, -, -, hd⟩ := decode_cases w <;> cases hd.symm.trans h
  · rw [hop, hrsv0, hrsv1, hp] at hw
    exact (encode_sha3Instr _).trans hw.symm
  · rw [hop, hrsv0, hrsv1, hp] at hw
    exact (encode_keccakInstr _).trans hw.symm
  · rfl
  · rfl

theorem decode_eq_ok_iff (w : Word) (i : Instr) : decode w = .ok i ↔ w = encode i :=
  ⟨fun h => (encode_of_decode h).symm, fun h => h ▸ decode_encode i⟩

theorem mem_commandTable_iff (i : Instr) (w : Word) : (i, w) ∈ commandTable ↔ w = encode i := by
  constructor
  · have rows : ∀ p ∈ commandTable, p.2 = encode p.1 := by decide
    exact rows (i, w)
  · rintro rfl
    cases i <;> decide

/-! ### The HASH rows (R86) -/

/-- The word of every HASH row is HASH-shaped with PAD 0 or 1. -/
theorem hashRow_shape {r : HashRow} (hr : r ∈ hashRows) :
    hashShaped (encode r.instr) ∧
      ((encode r.instr).extractLsb' 8 2 = 0 ∨ (encode r.instr).extractLsb' 8 2 = 1) := by
  unfold hashShaped
  revert r; decide

/-- The command of every VARIANT stands in a HASH row, in both padding families. -/
theorem exists_hashRow (var : BitVec 2) :
    (∃ r ∈ hashRows, r.instr = sha3Instr var) ∧ (∃ r ∈ hashRows, r.instr = keccakInstr var) := by
  revert var; decide

theorem decodes_to_hashRow_iff (w : Word) :
    (∃ r ∈ hashRows, decode w = .ok r.instr) ↔
      hashShaped w ∧ (w.extractLsb' 8 2 = 0 ∨ w.extractLsb' 8 2 = 1) := by
  constructor
  · rintro ⟨r, hr, hd⟩
    exact encode_of_decode hd ▸ hashRow_shape hr
  · rintro ⟨hs, hp⟩
    obtain ⟨⟨rs, hrs, hsha⟩, rk, hrk, hkec⟩ := exists_hashRow (w.extractLsb' 4 2)
    obtain hp | hp := hp
    · exact ⟨rs, hrs, by rw [decode_of_hash_shape hs, if_pos hp, hsha]⟩
    · exact ⟨rk, hrk, by rw [decode_of_hash_shape hs, hp, hkec]; rfl⟩

end Sys2Proof

namespace Sys2Proof.Machine

/-- R130: an illegal word written to CMD while BUSY = 0 clears DONE and is rejected. -/
theorem command_illegal {w : Word} {e : Illegal} {s : State} (hb : s.busy = false) (hd : decode w = .error e) :
    command w s = .next (reject (illegalCode e) { s with done := false }) := by
  simp [command, hb, hd]

end Sys2Proof.Machine
end

section
/-! PROOFS. The statements of spec/30_encoding.md on which words are legal and what an illegal one does. -/

namespace Sys2Proof.Proofs
open Sys2Proof.Machine Sys2Proof.Spec

/-- Settles O2: the words that decode to a command are its encoding, which is its row of the table; the HASH rows are
the HASH-shaped words with PAD 0 or 1, and the mask is that shape. -/
theorem onlyTheTenTableWordsAreLegal : Obligations.OnlyTheTenTableWordsAreLegal := by
  refine ⟨fun w i => ?table, fun w => ?hash⟩
  case table => rw [decode_eq_ok_iff, mem_commandTable_iff]
  case hash => rw [decodes_to_hashRow_iff, mask_match_iff_hashShaped]

/-- Settles O4: both error cases of the decoder by shape, and the rejection of R130 with the code of either. -/
theorem illegalWordsAreRejectedByShape : Obligations.IllegalWordsAreRejectedByShape := by
  refine ⟨decode_eq_error_pad_iff, fun w => ?cmd, fun s w hb => ?rejected⟩
  case cmd => rw [decode_eq_error_cmd_iff, cmdIllegalShape_iff]
  case rejected =>
    rw [memWrite_cmd]
    exact ⟨command_illegal hb, command_illegal hb⟩

end Sys2Proof.Proofs
end

section
/-! PROOFS. The number of padding bytes (R100): its range and its two extremes. -/

namespace Sys2Proof.Machine

section
variable {L R : Nat}

theorem padLength_pos (hR : 0 < R) : 0 < padLength L R :=
  Nat.sub_pos_of_lt (Nat.mod_lt L hR)

theorem padLength_le (L R : Nat) : padLength L R ≤ R :=
  Nat.sub_le R (L % R)

theorem padLength_of_mod_eq_zero (h : L % R = 0) : padLength L R = R := by
  rw [padLength, h, Nat.sub_zero]

theorem padLength_of_mod_eq_pred (hR : 0 < R) (h : L % R = R - 1) : padLength L R = 1 := by
  rw [padLength, h, Nat.sub_sub_self hR]

end

end Sys2Proof.Machine
end

section
/-! PROOFS. The statement of spec/40_padding.md on the number of padding bytes. -/

namespace Sys2Proof.Proofs
open Sys2Proof.Machine Sys2Proof.Spec

/-- Settles O30: the bounds of R100 from L mod R < R, and its two corner cases. -/
theorem padLengthIsBetweenOneAndRate : Obligations.PadLengthIsBetweenOneAndRate := fun L R hR =>
  ⟨rfl, padLength_pos hR, padLength_le L R, padLength_of_mod_eq_zero, padLength_of_mod_eq_pred hR⟩

end Sys2Proof.Proofs
end

section
/-! PROOFS. The lane operations of the permutation: ROTL64 as the library's rotation (R111), and theta and chi where
every column is even or a row is constant (R112, R115). -/

namespace Sys2Proof.Machine

/-! ### ROTL64 (R111) -/

section
variable (v : Lane) {n i : Nat}

theorem rotl64_of_mod_eq_zero (h : n % 64 = 0) : rotl64 v n = v := if_pos h

theorem rotl64_of_mod_ne_zero (h : n % 64 ≠ 0) :
    rotl64 v n = (v <<< (n % 64)) ||| (v >>> (64 - n % 64)) := if_neg h

/-- Where n mod 64 = 0 the rotation's right shift, by all 64 bits, leaves nothing. -/
theorem rotl64_eq_rotateLeft (n : Nat) : rotl64 v n = v.rotateLeft n := by
  rw [BitVec.rotateLeft_def]
  by_cases h : n % 64 = 0
  · rw [rotl64_of_mod_eq_zero v h, h, BitVec.shiftLeft_zero, Nat.sub_zero,
      BitVec.ushiftRight_eq_zero (Nat.le_refl 64), BitVec.or_zero]
  · exact rotl64_of_mod_ne_zero v h

/-- The low n mod 64 bits are the ones that wrap around. -/
theorem getLsbD_rotl64 (hi : i < 64) :
    (rotl64 v n).getLsbD i = v.getLsbD ((i + (64 - n % 64)) % 64) := by
  rw [rotl64_eq_rotateLeft, BitVec.getLsbD_rotateLeft]
  by_cases hwrap : i < n % 64
  · have hidx : (i + (64 - n % 64)) % 64 = 64 - n % 64 + i := by omega
    simp [hwrap, hidx]
  · have hidx : (i + (64 - n % 64)) % 64 = i - n % 64 := by omega
    simp [hwrap, hi, hidx]

end

@[simp] theorem rotl64_zero (n : Nat) : rotl64 0#64 n = 0#64 := by
  simp [rotl64]

/-! ### Theta (R112) -/

/-- D[x] with the column to the left named by x + 4, which is x − 1 modulo 5. -/
theorem thetaD_eq (a : Lanes) (x : Fin 5) :
    thetaD a x = columnParity a (x + 4) ^^^ rotl64 (columnParity a (x + 1)) 1 := by
  have hx : x - 1 = x + 4 := by revert x; decide
  rw [thetaD, hx]

theorem theta_of_even_columns {a : Lanes} (h : ∀ x, columnParity a x = 0) : theta a = a :=
  Lanes.ext_get fun x y => by simp [theta_get, thetaD_eq, h]

/-! ### Chi (R115) -/

/-- Where the lane two to the right is 0, the AND is 0. -/
theorem chi_get_of_zero {a : Lanes} {x y : Fin 5} (h : a.get (x + 2) y = 0) : (chi a).get x y = a.get x y := by
  simp [chi_get, h]

/-- Where the next lane is all ones, its complement is 0. -/
theorem chi_get_of_ones {a : Lanes} {x y : Fin 5} (h : a.get (x + 1) y = BitVec.allOnes 64) :
    (chi a).get x y = a.get x y := by
  simp [chi_get, h]

end Sys2Proof.Machine
end

section
/-! PROOFS. The statements of spec/41_permutation.md on ROTL64, theta, chi and iota. -/

namespace Sys2Proof.Proofs
open Sys2Proof.Machine Sys2Proof.Spec

/-- Settles O23: the two branches of ROTL64, and its bits as those of the library's rotation. -/
theorem rotlMovesBitsLeft : Obligations.RotlMovesBitsLeft := fun v _ =>
  ⟨rotl64_of_mod_eq_zero v, rotl64_of_mod_ne_zero v, fun _ => getLsbD_rotl64 v⟩

/-- Settles O24: theta lane by lane with the parities written out; with even columns every D[x] is 0. -/
theorem thetaAddsColumnParities : Obligations.ThetaAddsColumnParities := by
  refine ⟨fun a x y => ?lanes, fun a h => theta_of_even_columns h⟩
  case lanes =>
    rw [theta_get, thetaD_eq]
    rfl

/-- Settles O26: chi lane by lane, with XOR by all ones as complement; in a constant row the AND is 0. -/
theorem chiMixesEachRowAlone : Obligations.ChiMixesEachRowAlone := by
  refine ⟨fun a x y => ?lanes, fun a y => ⟨fun h x => ?zeros, fun h x => ?ones⟩⟩
  case lanes =>
    rw [chi_get]
    exact congrArg (a.get x y ^^^ · &&& _) BitVec.xor_allOnes.symm
  case zeros => rw [chi_get_of_zero (h (x + 2)), h x]
  case ones => rw [chi_get_of_ones (h (x + 1)), h x]

/-- Settles O27: the two branches of iota at a lane. -/
theorem iotaChangesOneLane : Obligations.IotaChangesOneLane := fun a i =>
  ⟨(iota_get a i 0 0).trans (if_pos ⟨rfl, rfl⟩),
    fun x y h => (iota_get a i x y).trans (if_neg fun ⟨hx, hy⟩ => h (Prod.ext hx hy))⟩

end Sys2Proof.Proofs
end

section
/-! PROOFS. The ABSORB step (R140): the phase that selects it, the block it reads, and what it does to each lane. -/

namespace Sys2Proof.Machine

section
variable {s : State}

theorem engineStep_absorb (hp : s.phase = .absorb) : engineStep s = absorbStep s := by
  simp only [engineStep, hp]

/-- ABSORB is a step of a HASH run (R31). -/
theorem Inv.hashRunOk_of_absorb (hs : Inv s) (hp : s.phase = .absorb) : HashRunOk s := by
  have hrun := hs.run_ok
  rwa [RunOk, hp] at hrun

/-- The block in progress ends at or before the end of the padded message (R104, R140). -/
theorem HashRunOk.block_le (h : HashRunOk s) :
    s.blk.toNat * s.ctx.R.toNat + s.ctx.R.toNat ≤ s.ctx.nblk.toNat * s.ctx.R.toNat := by
  rw [← Nat.succ_mul]
  exact Nat.mul_le_mul_right _ h.block_index

end

section
variable (P : Nat → Byte) {R : Nat} (base : Nat) (a : Lanes) {x y : Fin 5}

theorem absorbBlock_get_rate (h : laneIndex x y < R / 8) :
    (absorbBlock P R base a).get x y = a.get x y ^^^ le64 fun b => P (base + 8 * laneIndex x y + b) := by
  rw [absorbBlock, Lanes.get_ofFn, if_pos h]

theorem absorbBlock_get_capacity (h : R / 8 ≤ laneIndex x y) :
    (absorbBlock P R base a).get x y = a.get x y := by
  rw [absorbBlock, Lanes.get_ofFn, if_neg (Nat.not_lt.2 h)]

end

end Sys2Proof.Machine
end

section
/-! PROOFS. The statement of spec/42_sponge_fsm.md on the ABSORB step. -/

namespace Sys2Proof.Proofs
open Sys2Proof.Machine Sys2Proof.Spec

/-- Settles O34: the step is `absorbStep`, whose fields are read off; a lane is of the rate or of the capacity, and the
block bound is that of the run's block index. -/
theorem absorbStepXorsTheRateLanes : Obligations.AbsorbStepXorsTheRateLanes := by
  intro s hs hp
  exact ⟨absorbStep s, engineStep_absorb hp, rfl, absorbStep_rnd s, absorbStep_phase s,
    (hs.hashRunOk_of_absorb hp).block_le, fun _ _ hk => absorbBlock_get_rate _ _ _ hk,
    fun _ _ hk => absorbBlock_get_capacity _ _ _ hk⟩

end Sys2Proof.Proofs
end

section
/-! PROOFS. Serialization (R160): the byte at each index of S. -/

namespace Sys2Proof.Machine

/-- S[8k + i] is byte i of lane k: division by 8 gives the lane, the remainder the byte in it. -/
theorem serialize_getElem? (a : Lanes) {k i : Nat} (hk : k < 25) (hi : i < 8) :
    (serialize a)[8 * k + i]? = some (byteOf (a.lane k) i) := by
  have hindex : 8 * k + i < 200 := by omega
  have hlane : (8 * k + i) / 8 = k := by omega
  have hbyte : (8 * k + i) % 8 = i := by omega
  rw [Vector.getElem?_eq_getElem hindex, serialize, Vector.getElem_ofFn, hlane, hbyte]

end Sys2Proof.Machine
end

section
/-! PROOFS. The statement of spec/43_digest_formatter.md on serialization. -/

namespace Sys2Proof.Proofs
open Sys2Proof.Machine Sys2Proof.Spec

/-- Settles O41: lane x + 5y of the 25 is A[x][y], and LE64 and the bytes of a word are inverse to each other. -/
theorem serializeInLaneOrder : Obligations.SerializeInLaneOrder := by
  refine ⟨fun a x y i => ?_, fun b i => byteOf_le64 b i i.isLt, le64_byteOf⟩
  have hk : x.val + 5 * y.val < 25 := by omega
  rw [serialize_getElem? a hk i.isLt, Lanes.lane_laneIndex, byteOf]

end Sys2Proof.Proofs
end

section
/-! PROOFS. The reset turn (R200) and the command write (R130): the equation of each, the decoding of a HASH word by
the number in its PAD field, and the code that a HASH leaves. -/

namespace Sys2Proof.Machine
open Sys2Proof.Spec

/-- R200: a reset turn resets the block, whatever its state. -/
theorem step_reset {s : State} (h : nextTurn s = .reset) :
    step s = .next (resetBlock { s with schedule := s.schedule.tail, bus := .quiet }) := by
  rw [step_eq, h]; rfl

theorem command_busy (w : Word) {s : State} (hb : s.busy = true) : command w s = .next (reject .busy s) :=
  if_pos hb

/-- R130: a legal word written to CMD while BUSY = 0 clears DONE, and its command's effect follows. -/
theorem command_legal {w : Word} {i : Instr} {s : State} (hb : s.busy = false) (hd : decode w = .ok i) :
    command w s = .next (effect i { s with done := false }) := by
  simp [command, hb, hd, exec_eq_issue, issue_idle]

theorem command_answers (w : Word) (s : State) : ∃ t, command w s = .next t := by
  cases hb : s.busy with
  | true => exact ⟨_, command_busy w hb⟩
  | false =>
    cases hd : decode w with
    | error e => exact ⟨_, command_illegal hb hd⟩
    | ok i => exact ⟨_, command_legal hb hd⟩

theorem effect_sha3Instr (var : BitVec 2) : effect (sha3Instr var) = execHash var .sha3 := by
  obtain rfl | rfl | rfl | rfl := field2_cases var <;> rfl

theorem effect_keccakInstr (var : BitVec 2) : effect (keccakInstr var) = execHash var .keccak := by
  obtain rfl | rfl | rfl | rfl := field2_cases var <;> rfl

/-- R85: a HASH word with PAD 0 or 1 decodes to the HASH of its VARIANT and padding. -/
theorem decode_hash_of_pad_le_one {w : Word} (hs : hashShaped w) (hp : (w.extractLsb' 8 2).toNat ≤ 1) :
    ∃ i var p, decode w = .ok i ∧ effect i = execHash var p := by
  have hd := decode_of_hash_shape hs
  obtain h | h | h | h := field2_cases (w.extractLsb' 8 2) <;> rw [h] at hd hp
  · exact ⟨_, _, _, hd, effect_sha3Instr _⟩
  · exact ⟨_, _, _, hd, effect_keccakInstr _⟩
  · exact absurd hp (by decide)
  · exact absurd hp (by decide)

/-- R85: a HASH word with PAD 2 or 3 is ILLEGAL(2). -/
theorem decode_hash_of_two_le_pad {w : Word} (hs : hashShaped w) (hp : 2 ≤ (w.extractLsb' 8 2).toNat) :
    decode w = .error .pad := by
  refine (decode_eq_error_pad_iff w).2 ⟨hs, ?_⟩
  obtain h | h | h := field2_cases (w.extractLsb' 8 2)
  · exact absurd hp (by rw [h]; decide)
  · exact absurd hp (by rw [h]; decide)
  · exact h

/-- R131, R182: the only code of a HASH that is issued is that of a LEN above MSG_CAP. -/
theorem execHash_errcode (var : BitVec 2) (p : Padding) (s : State) :
    (execHash var p s).errcode = if s.cap < s.len.toNat then 3 else 0 := by
  unfold execHash
  split <;> rfl

/-- The code after a HASH word with PAD 0 or 1 written to CMD while BUSY = 0. -/
theorem command_hash_errcode {w : Word} {s t : State} (hb : s.busy = false) (hs : hashShaped w)
    (hp : (w.extractLsb' 8 2).toNat ≤ 1) (ht : command w s = .next t) :
    t.errcode = if s.cap < s.len.toNat then 3 else 0 := by
  obtain ⟨i, var, p, hd, he⟩ := decode_hash_of_pad_le_one hs hp
  cases ht.symm.trans (command_legal hb hd)
  rw [he, execHash_errcode]

end Sys2Proof.Machine
end

section
/-! PROOFS. The statement of spec/60_exceptions.md on the one code that a command write reports. -/

namespace Sys2Proof.Proofs
open Sys2Proof.Machine Sys2Proof.Spec

/-- Settles O14: every clause is one equation of `command`, which answers in every case, so the clause's code is the
answer's. -/
theorem oneCodeByPriority : Obligations.OneCodeByPriority := by
  refine ⟨fun s rest hsched => ?reset, fun s w => ?write⟩
  case reset =>
    have hnext : nextTurn s = .reset := by rw [nextTurn, hsched]; rfl
    exact ⟨_, step_reset hnext, resetBlock_errcode _⟩
  case write =>
    obtain ⟨t, ht⟩ := command_answers w s
    refine ⟨t, ht, fun hb => ?busy, fun hb hs h2 h3 => ?cmd, fun hb hs hp => ?pad, fun hb hs hp hlen => ?long,
      fun hb hs hp hlen => ?fits, fun hb hw => ?other⟩
    case busy => cases ht.symm.trans (command_busy w hb); rfl
    case cmd =>
      have hd := (decode_eq_error_cmd_iff w).2 ⟨hs, h2, h3⟩
      cases ht.symm.trans (command_illegal hb hd); rfl
    case pad =>
      cases ht.symm.trans (command_illegal hb (decode_hash_of_two_le_pad hs hp)); rfl
    case long => rw [command_hash_errcode hb hs hp ht, if_pos hlen]
    case fits => rw [command_hash_errcode hb hs hp ht, if_neg (Nat.not_lt.2 hlen)]
    case other =>
      obtain rfl | rfl := hw
      · cases ht.symm.trans (command_legal hb (decode_encode .permute)); rfl
      · cases ht.symm.trans (command_legal hb (decode_encode .clear)); rfl

end Sys2Proof.Proofs
end

section
/-! PROOFS. The reset turn at the head of the schedule, and what is read after a reset (R200): the STATUS word and the
bytes of MSG. -/

namespace Sys2Proof.Machine

theorem nextTurn_of_schedule {s : State} {τ : Turn} {rest : List Turn} (h : s.schedule = τ :: rest) :
    nextTurn s = τ := by
  rw [nextTurn, h]; rfl

/-- R23: STATUS is made of BUSY, DONE and ERRCODE, so it reads 0 once a reset has cleared all three. -/
@[simp] theorem statusWord_resetBlock (s : State) : statusWord (resetBlock s) = 0 := by
  simp [statusWord]

/-- R200: reset keeps MSG, so every byte of the buffer, written or drawn, reads as before. -/
@[simp] theorem msgByte_resetBlock (s : State) (i : Nat) : msgByte (resetBlock s) i = msgByte s i := rfl

end Sys2Proof.Machine
end

section
/-! PROOFS. The statement of spec/70_reset_and_hazards.md on what a reset zeroes and keeps. -/

namespace Sys2Proof.Proofs
open Sys2Proof.Machine Sys2Proof.Spec

/-- Settles O44: the reset turn answers `resetBlock`, from any state; what is left is what each observer reads there. -/
theorem resetZeroesAllButMsg : Obligations.ResetZeroesAllButMsg := by
  intro s rest hsched
  refine ⟨_, step_reset (nextTurn_of_schedule hsched), fun x y => ?lanes, statusWord_resetBlock _, resetBlock_len _,
    resetBlock_result _, fun j => ?digestHex, resetBlock_phase _, resetBlock_rnd _, resetBlock_blk _, resetBlock_ctx _,
    msgByte_resetBlock _, resetBlock_msg _, resetBlock_cap _, resetBlock_done _⟩
  case lanes => rw [resetBlock_lanes, Lanes.get_zero]
  case digestHex => simp only [resetBlock_digestHex, Fin.getElem_fin, Vector.getElem_replicate]

end Sys2Proof.Proofs
end

section
/-! PROOFS. What a step can do, said once for the whole machine: that every step answers a next state, the equation of a
step by the head of the schedule, a step's inversion by the turn it takes (R61, R66, R130, R143, R200), and runs of
several steps. -/

namespace Sys2Proof.Machine
open Sys2Proof.Spec

/-! ### Every step answers a next state (R188) -/

theorem memWrite_answers (off : Nat) (v : Word) (s : State) : ∃ t, memWrite off v s = .next t := by
  unfold memWrite
  split
  · exact ⟨_, rfl⟩
  · split
    · exact command_answers v s
    · split
      · split
        · exact ⟨_, rfl⟩
        · split <;> exact ⟨_, rfl⟩
      · exact ⟨_, rfl⟩

theorem takeTurn_answers (τ : Turn) (s : State) : ∃ t, takeTurn τ s = .next t := by
  cases τ with
  | host tr =>
    cases tr with
    | read off => exact ⟨_, rfl⟩
    | write off v => exact memWrite_answers off.toNat v _
  | engine => exact ⟨_, rfl⟩
  | reset => exact ⟨_, rfl⟩

theorem step_answers (s : State) : ∃ t, step s = .next t := by
  rw [step_eq]
  exact takeTurn_answers _ _

/-! ### A step by the head of the schedule -/

section
variable {s t : State} {rest : List Turn}

theorem step_of_schedule {τ : Turn} (h : s.schedule = τ :: rest) : step s = takeTurn τ { s with schedule := rest } := by
  simp only [step, h]

theorem step_of_empty_schedule (h : s.schedule = []) : step s = .next (engineStep { s with bus := .quiet }) := by
  have hturn : step s = takeTurn .engine s := by simp only [step, h]
  exact hturn

/-! ### Runs of several steps -/

theorem run_succ (n : Nat) (h : step s = .next t) : run (n + 1) s = run n t := by
  have hcore : Host.Core.step Sys2Proof.core s = .next t := h
  simp only [run, Host.Core.run, hcore]
  rfl

theorem run_add (m n : Nat) (h : run m s = .next t) : run (m + n) s = run n t := by
  induction m generalizing s with
  | zero => cases h; rw [Nat.zero_add]
  | succ m ih =>
    obtain ⟨s', hs⟩ := step_answers s
    rw [run_succ m hs] at h
    rw [Nat.succ_add, run_succ _ hs]
    exact ih h

end

/-! ### A step by what it does -/

/-- The state that a turn of the schedule is taken from: the schedule has moved on, and the bus shows `out`. -/
def State.advanced (s : State) (out : BusOut) : State := { s with schedule := s.schedule.tail, bus := out }

/-- What one step can do: one constructor for each effect of R61, R62, R130, R143 and R200, with the turn and the
condition under which it comes. -/
inductive StepEffect (s : State) : State → Prop
  /-- R62. -/
  | read (off : BitVec 17) (turn : nextTurn s = .host (.read off)) :
      StepEffect s (hostRead off (s.advanced s.bus))
  /-- R53, R57, R64. -/
  | ignoredWrite (off : BitVec 17) (v : Word) (turn : nextTurn s = .host (.write off v)) (other : off ≠ 0x010) :
      StepEffect s (s.advanced .ack)
  /-- R183, ERR_BUSY. -/
  | busyCommand (w : Word) (turn : nextTurn s = commandTurn w) (busy : s.busy = true) :
      StepEffect s (reject .busy (s.advanced .ack))
  /-- R130, an illegal word. -/
  | illegalCommand (w : Word) (e : Illegal) (turn : nextTurn s = commandTurn w) (idle : s.busy = false) :
      StepEffect s (reject (illegalCode e) { s.advanced .ack with done := false })
  /-- R130, a legal word. -/
  | command (i : Instr) (turn : nextTurn s = commandTurn (encode i)) (idle : s.busy = false) :
      StepEffect s (effect i { s.advanced .ack with done := false })
  /-- R183, ERR_BUSYWR. -/
  | busyData (off : BitVec 17) (v : Word) (turn : nextTurn s = .host (.write off v)) (aligned : off.toNat % 8 = 0)
      (data : dataOffset s.cap off.toNat) (busy : s.busy = true) :
      StepEffect s (reject .busyWr (s.advanced .ack))
  /-- R61, LEN. -/
  | lenWrite (v : Word) (turn : nextTurn s = .host (.write 0x020 v)) (idle : s.busy = false) :
      StepEffect s { s.advanced .ack with len := v }
  /-- R61, MSG. -/
  | msgWrite (off : BitVec 17) (v : Word) (turn : nextTurn s = .host (.write off v)) (aligned : off.toNat % 8 = 0)
      (above : 0x10000 ≤ off.toNat) (below : off.toNat < 0x10000 + s.cap) (idle : s.busy = false) :
      StepEffect s (writeMsgWord (off.toNat - 0x10000) v (s.advanced .ack))
  /-- R143. -/
  | engine (turn : nextTurn s = .engine) : StepEffect s (engineStep (s.advanced .quiet))
  /-- R200. -/
  | reset (turn : nextTurn s = .reset) : StepEffect s (resetBlock (s.advanced .quiet))

/-- The effects of a host write. -/
theorem stepEffect_of_write {s t : State} {off : BitVec 17} {v : Word} (turn : nextTurn s = .host (.write off v))
    (h : memWrite off.toNat v (s.advanced .ack) = .next t) : StepEffect s t := by
  have htoNat (c : BitVec 17) (hc : off.toNat = c.toNat) : nextTurn s = .host (.write c v) := by
    rw [turn, BitVec.eq_of_toNat_eq hc]
  obtain ⟨hother, rfl⟩ | ⟨hoff, hb, rfl⟩ | ⟨hoff, hb, e, -, rfl⟩ | ⟨hoff, hb, i, hi, rfl⟩ | ⟨hal, hdata, hb, rfl⟩ |
    ⟨hoff, hb, rfl⟩ | ⟨hal, habove, hbelow, hb, rfl⟩ := memWrite_cases h
  · have hcmd : off.toNat ≠ 0x010 := by omega
    exact .ignoredWrite off v turn fun h => hcmd (congrArg BitVec.toNat h)
  · exact .busyCommand v (htoNat 0x010 hoff) hb
  · exact .illegalCommand v e (htoNat 0x010 hoff) hb
  · have hcmd : nextTurn s = commandTurn (encode i) := by rw [htoNat 0x010 hoff, encode_of_decode hi]; rfl
    exact .command i hcmd hb
  · exact .busyData off v turn hal hdata hb
  · exact .lenWrite v (htoNat 0x020 hoff) hb
  · exact .msgWrite off v turn hal habove hbelow hb

/-- Every step has one of the effects. -/
theorem stepEffect_of_step {s t : State} (h : step s = .next t) : StepEffect s t := by
  rw [step_eq] at h
  obtain ⟨off, hturn, rfl⟩ | ⟨off, v, hturn, hw⟩ | ⟨hturn, rfl⟩ | ⟨hturn, rfl⟩ := takeTurn_cases h
  · exact .read off hturn
  · exact stepEffect_of_write hturn hw
  · exact .engine hturn
  · exact .reset hturn

end Sys2Proof.Machine
end

section
/-! PROOFS. The engine's step (R140 to R143): its equation in each phase, and that it neither writes the host's side of
the block nor reads more of it than the message bytes below L (R54, R73, R103). -/

namespace Sys2Proof.Machine

/-! ### The step in each phase -/

section
variable {s : State}

theorem engineStep_idle (hp : s.phase = .idle) : engineStep s = s := by
  simp only [engineStep, hp]

theorem engineStep_format (hp : s.phase = .format) : engineStep s = formatStep s := by
  simp only [engineStep, hp]

theorem engineStep_round (hp : s.phase = .round) : engineStep s = roundStep s := by
  simp only [engineStep, hp]

/-- R141, below round 23. -/
theorem engineStep_nextRound (hp : s.phase = .round) {i : Fin 24} (hr : s.rnd.val < 23) (hi : i.val = s.rnd.val + 1) :
    engineStep s = { s with lanes := keccakRound s.lanes s.rnd, rnd := i } := by
  rw [show i = ⟨s.rnd.val + 1, Nat.succ_lt_succ hr⟩ from Fin.ext hi]
  exact (engineStep_round hp).trans (dif_pos hr)

/-- R141, round 23. -/
theorem engineStep_lastRound (hp : s.phase = .round) (hr : s.rnd.val = 23) :
    engineStep s = afterLastRound { s with lanes := keccakRound s.lanes s.rnd } := by
  rw [engineStep_round hp, roundStep, dif_neg (by omega)]

theorem afterLastRound_permute (hop : s.ctx.op = .permute) :
    afterLastRound s = { s with phase := .idle, busy := false, done := true } := if_pos hop

theorem afterLastRound_nextBlock (hop : s.ctx.op ≠ .permute) (hblk : s.blk.toNat + 1 < s.ctx.nblk.toNat) :
    afterLastRound s = { s with blk := s.blk + 1, phase := .absorb } := by
  rw [afterLastRound, if_neg hop, if_pos hblk]

theorem afterLastRound_lastBlock (hop : s.ctx.op ≠ .permute) (hblk : ¬s.blk.toNat + 1 < s.ctx.nblk.toNat) :
    afterLastRound s = { s with phase := .format } := by
  rw [afterLastRound, if_neg hop, if_neg hblk]

end

/-! ### The host's side of the block -/

/-- `s` with the host's side of `h`: what host transactions write or show, and the parameter MSG_CAP. The rest is the
engine's: A, the results, BUSY, DONE, the sequencer and the run context. -/
def State.withHostSide (s h : State) : State :=
  { s with
    cap := h.cap, errcode := h.errcode, len := h.len, msg := h.msg, msgDraw := h.msgDraw, draws := h.draws
    schedule := h.schedule, bus := h.bus }

/-- R103: P reads no byte of MSG at or beyond L. -/
theorem enginePadded_congr {s s' : State} (hctx : s'.ctx = s.ctx)
    (hmsg : ∀ i < s.ctx.L.toNat, msgByte s' i = msgByte s i) : enginePadded s' = enginePadded s := by
  funext i
  simp only [enginePadded, paddedByte, hctx]
  split
  · exact hmsg i ‹_›
  · rfl

/-- Below L the engine's padded message is MSG (R103). -/
theorem enginePadded_of_lt {s : State} {i : Nat} (h : i < s.ctx.L.toNat) : enginePadded s i = msgByte s i :=
  if_pos h

/-- Of the host's side the engine reads the message bytes below L alone, and it writes none of it. -/
theorem engineStep_withHostSide {s h : State}
    (hmsg : ∀ i < s.ctx.L.toNat, msgByte (s.withHostSide h) i = msgByte s i) :
    engineStep (s.withHostSide h) = (engineStep s).withHostSide h := by
  have hphase : (s.withHostSide h).phase = s.phase := rfl
  obtain ⟨hp, he⟩ | ⟨hp, he⟩ | ⟨hp, i, hr, hi, he⟩ | ⟨hp, hr, hop, he⟩ | ⟨hp, hr, hop, hb, he⟩ | ⟨hp, hr, hop, hb, he⟩ |
    ⟨hp, he⟩ := engineStep_cases s
  all_goals
    rw [he]
    rw [hp] at hphase
  · exact engineStep_idle hphase
  · have hpadded : enginePadded (s.withHostSide h) = enginePadded s := enginePadded_congr rfl hmsg
    rw [engineStep_absorb hphase, absorbStep, hpadded]
    rfl
  · exact engineStep_nextRound hphase hr hi
  · exact (engineStep_lastRound hphase hr).trans (afterLastRound_permute hop)
  · exact (engineStep_lastRound hphase hr).trans (afterLastRound_nextBlock hop hb)
  · exact (engineStep_lastRound hphase hr).trans (afterLastRound_lastBlock hop hb)
  · exact engineStep_format hphase

/-- R73, R184: the engine writes none of the host's side. -/
theorem engineStep_keeps_hostSide (s : State) : engineStep s = (engineStep s).withHostSide s :=
  engineStep_withHostSide (s := s) (h := s) fun _ _ => rfl

section
variable (s : State)

@[simp] theorem engineStep_cap : (engineStep s).cap = s.cap := (congrArg State.cap (engineStep_keeps_hostSide s) :)
@[simp] theorem engineStep_errcode : (engineStep s).errcode = s.errcode :=
  (congrArg State.errcode (engineStep_keeps_hostSide s) :)
@[simp] theorem engineStep_len : (engineStep s).len = s.len := (congrArg State.len (engineStep_keeps_hostSide s) :)
@[simp] theorem engineStep_msg : (engineStep s).msg = s.msg := (congrArg State.msg (engineStep_keeps_hostSide s) :)
@[simp] theorem engineStep_msgDraw : (engineStep s).msgDraw = s.msgDraw :=
  (congrArg State.msgDraw (engineStep_keeps_hostSide s) :)
@[simp] theorem engineStep_draws : (engineStep s).draws = s.draws :=
  (congrArg State.draws (engineStep_keeps_hostSide s) :)
@[simp] theorem engineStep_schedule : (engineStep s).schedule = s.schedule :=
  (congrArg State.schedule (engineStep_keeps_hostSide s) :)
@[simp] theorem engineStep_bus : (engineStep s).bus = s.bus := (congrArg State.bus (engineStep_keeps_hostSide s) :)

/-- R32: no engine step writes the run context. -/
@[simp] theorem engineStep_ctx : (engineStep s).ctx = s.ctx := by
  obtain ⟨-, he⟩ | ⟨-, he⟩ | ⟨-, _, -, -, he⟩ | ⟨-, -, -, he⟩ | ⟨-, -, -, -, he⟩ | ⟨-, -, -, -, he⟩ | ⟨-, he⟩ :=
    engineStep_cases s <;> rw [he] <;> rfl

@[simp] theorem msgByte_engineStep (k : Nat) : msgByte (engineStep s) k = msgByte s k := by
  rw [msgByte, engineStep_msg, engineStep_msgDraw, msgByte]

end

/-- The engine's step commutes with a change of the host's side that keeps MSG. -/
theorem engineStep_withHostSide_of_msg {s h : State} (hmsg : h.msg = s.msg) (hdraw : h.msgDraw = s.msgDraw) :
    engineStep (s.withHostSide h) = (engineStep s).withHostSide h :=
  engineStep_withHostSide fun i _ => by
    show (Memory.find h.msg i).getD (Config.powerOnByte h.msgDraw i) = msgByte s i
    rw [hmsg, hdraw, msgByte]

/-- R131: a LEN written later changes no step of a run, which reads the latched copy. -/
theorem engineStep_setLen (s : State) (v : Word) : engineStep { s with len := v } = { engineStep s with len := v } := by
  have h := engineStep_withHostSide_of_msg (s := s) (h := { s with len := v }) rfl rfl
  rw [engineStep_keeps_hostSide s]
  exact h

theorem engineStep_setBus (s : State) (out : BusOut) :
    engineStep { s with bus := out } = { engineStep s with bus := out } := by
  have h := engineStep_withHostSide_of_msg (s := s) (h := { s with bus := out }) rfl rfl
  rw [engineStep_keeps_hostSide s]
  exact h

/-! ### What a step of a run does to the sequencer and the flags -/

section
variable {s : State}

/-- A step of a run goes on, with BUSY and DONE as they were, or is the last. -/
theorem engineStep_goes_on_or_ends (hp : s.phase ≠ .idle) :
    ((engineStep s).phase ≠ .idle ∧ (engineStep s).busy = s.busy ∧ (engineStep s).done = s.done) ∨
    ((engineStep s).phase = .idle ∧ (engineStep s).busy = false ∧ (engineStep s).done = true) := by
  obtain ⟨hi, -⟩ | ⟨-, he⟩ | ⟨hr, _, -, -, he⟩ | ⟨-, -, -, he⟩ | ⟨-, -, -, -, he⟩ | ⟨-, -, -, -, he⟩ | ⟨-, he⟩ :=
    engineStep_cases s
  · exact absurd hi hp
  all_goals rw [he]
  · exact .inl ⟨nofun, rfl, rfl⟩
  · exact .inl ⟨hp, rfl, rfl⟩
  · exact .inr ⟨rfl, rfl, rfl⟩
  · exact .inl ⟨nofun, rfl, rfl⟩
  · exact .inl ⟨nofun, rfl, rfl⟩
  · exact .inr ⟨rfl, rfl, rfl⟩

/-- R143: in a run every step changes the sequencer, so the state. -/
theorem engineStep_ne_self (hp : s.phase ≠ .idle) : engineStep s ≠ s := by
  intro heq
  obtain ⟨hi, -⟩ | ⟨hp', he⟩ | ⟨-, i, -, hi, he⟩ | ⟨hp', -, -, he⟩ | ⟨hp', -, -, -, he⟩ |
    ⟨hp', -, -, -, he⟩ | ⟨hp', he⟩ := engineStep_cases s
  case inl => exact hp hi
  case inr.inr.inl =>
    have hrnd : i = s.rnd := congrArg State.rnd (he.symm.trans heq)
    rw [hrnd] at hi
    omega
  all_goals
    have hphase := congrArg State.phase (he.symm.trans heq)
    simp [hp'] at hphase

/-- R143: the engine writes A in ABSORB and ROUND alone. -/
theorem engineStep_lanes_of_ne {s : State} (h : (engineStep s).lanes ≠ s.lanes) :
    s.phase = .absorb ∨ s.phase = .round := by
  cases hp : s.phase with
  | idle => rw [engineStep_idle hp] at h; exact absurd rfl h
  | absorb => exact .inl rfl
  | round => exact .inr rfl
  | format => rw [engineStep_format hp] at h; exact absurd rfl h

/-- R25, R26: the engine writes the results in FORMAT alone, with the end of the run. -/
theorem engineStep_results_of_ne {s : State}
    (h : (engineStep s).result ≠ s.result ∨ (engineStep s).digestHex ≠ s.digestHex) :
    s.phase = .format ∧ (engineStep s).busy = false := by
  obtain ⟨-, he⟩ | ⟨-, he⟩ | ⟨-, _, -, -, he⟩ | ⟨-, -, -, he⟩ | ⟨-, -, -, -, he⟩ | ⟨-, -, -, -, he⟩ | ⟨hp, he⟩ :=
    engineStep_cases s
  case inr.inr.inr.inr.inr.inr => exact ⟨hp, by rw [he]; rfl⟩
  all_goals
    rw [he] at h
    simp at h

end

end Sys2Proof.Machine
end

section
/-! PROOFS. The formatter (R161 to R163): the character at each index of DIGEST_HEX, its code, and the lengths of the four
variants (R165, R170). -/

namespace Sys2Proof.Machine

/-! ### The codes (R162) -/

theorem hexChar_eq_table (n : BitVec 4) : hexChar n =
    ([0x30, 0x31, 0x32, 0x33, 0x34, 0x35, 0x36, 0x37, 0x38, 0x39, 0x61, 0x62, 0x63, 0x64, 0x65, 0x66] :
      List Byte).getD n.toNat 0 := by
  revert n; decide

theorem isLowerHex_hexChar (n : BitVec 4) : isLowerHex (hexChar n) = true := by
  revert n; decide

theorem isLowerHex_iff (b : Byte) :
    isLowerHex b = true ↔ (0x30 ≤ b.toNat ∧ b.toNat ≤ 0x39) ∨ (0x61 ≤ b.toNat ∧ b.toNat ≤ 0x66) := by
  simp [isLowerHex, BitVec.le_def]

/-! ### The characters (R161, R163) -/

section
variable (S : Vector Byte 200)

theorem isLowerHex_hexCharAt (j : Nat) : isLowerHex (hexCharAt S j) = true := by
  unfold hexCharAt
  split <;> exact isLowerHex_hexChar _

theorem hexCharAt_even (i : Fin 200) : hexCharAt S (2 * i.val) = hexChar (S[i].extractLsb' 4 4) := by
  have hhalf : 2 * i.val / 2 = i.val := by omega
  have heven : 2 * i.val % 2 = 0 := by omega
  simp [hexCharAt, hhalf, heven]

theorem hexCharAt_odd (i : Fin 200) : hexCharAt S (2 * i.val + 1) = hexChar (S[i].extractLsb' 0 4) := by
  have hhalf : (2 * i.val + 1) / 2 = i.val := by omega
  simp [hexCharAt, hhalf]

end

section
variable (a : Lanes) {N j : Nat}

theorem formatHex_getElem (j : Fin 128) :
    (formatHex a N)[j] = if j.val < N / 4 then hexCharAt (serialize a) j.val else 0x00 := by
  simp [formatHex]

theorem formatHex_getElem? (hN : N ≤ 512) (hj : j < N / 4) :
    (formatHex a N)[j]? = some (hexCharAt (serialize a) j) := by
  have hindex : j < 128 := by omega
  rw [Vector.getElem?_eq_getElem hindex]
  exact congrArg some ((formatHex_getElem a ⟨j, hindex⟩).trans (if_pos hj))

end

/-! ### The four lengths (R165, R170) -/

theorem outputBits_le (var : BitVec 2) : (outputBits var).toNat ≤ 512 := by
  revert var; decide

/-- HEXLEN, N/4, loses nothing in its 8 bits. -/
theorem hexlen_toNat (var : BitVec 2) :
    (BitVec.ofNat 8 ((outputBits var).toNat / 4)).toNat = (outputBits var).toNat / 4 := by
  revert var; decide

theorem hexlen_eq_table (var : BitVec 2) : (outputBits var).toNat / 4 = [56, 64, 96, 128].getD var.toNat 0 := by
  revert var; decide

/-- The reserved bits of RESULT read 0 (R25). -/
theorem resultWord_reserved (nblk : BitVec 32) (pad var : BitVec 2) (hexlen : BitVec 8) :
    (resultWord nblk pad var hexlen).extractLsb' 10 2 = 0 ∧ (resultWord nblk pad var hexlen).extractLsb' 14 18 = 0 := by
  constructor
  all_goals
    apply BitVec.eq_of_getLsbD_eq
    intro i hi
    simp only [resultWord, BitVec.getLsbD_extractLsb', BitVec.getLsbD_append]
    grind

end Sys2Proof.Machine
end

section
/-! PROOFS. The run context (R31, R32, R104): what a run in each phase is judged by, that the engine keeps it, and that an
accepted HASH latches one. -/

namespace Sys2Proof.Machine
open Sys2Proof.Spec

section
variable {s t : State}

/-- The run context and the block index are all that a HASH run is judged by, beside MSG_CAP. -/
theorem HashRunOk.congr (h : HashRunOk s) (hctx : t.ctx = s.ctx) (hcap : t.cap = s.cap) (hblk : t.blk = s.blk) :
    HashRunOk t := by
  obtain ⟨op, pad, rate, output, domain, fits, blocks, index⟩ := h
  constructor <;> simpa only [hctx, hcap, hblk]

/-- R31: the block index does not wrap before nblk. -/
theorem blk_succ_toNat (hnext : s.blk.toNat + 1 < s.ctx.nblk.toNat) : (s.blk + 1).toNat = s.blk.toNat + 1 :=
  BitVec.toNat_add_of_lt (y := 1) (by simp; omega)

/-- R31, R141: the next block of a run is still one of its nblk blocks. -/
theorem HashRunOk.nextBlock (h : HashRunOk s) (hnext : s.blk.toNat + 1 < s.ctx.nblk.toNat) (hctx : t.ctx = s.ctx)
    (hcap : t.cap = s.cap) (hblk : t.blk = s.blk + 1) : HashRunOk t := by
  obtain ⟨op, pad, rate, output, domain, fits, blocks, -⟩ := h
  constructor <;> simpa only [hctx, hcap, hblk, blk_succ_toNat hnext]

theorem RunOk.congr (h : RunOk s) (hphase : t.phase = s.phase) (hctx : t.ctx = s.ctx) (hcap : t.cap = s.cap)
    (hblk : t.blk = s.blk) (hrnd : t.rnd = s.rnd) : RunOk t := by
  unfold RunOk at h ⊢
  rw [hphase]
  cases hp : s.phase with
  | idle => trivial
  | absorb =>
    rw [hp] at h
    exact HashRunOk.congr h hctx hcap hblk
  | round =>
    rw [hp] at h
    rw [hctx]
    exact h.imp_right fun hrun => hrun.congr hctx hcap hblk
  | format =>
    rw [hp] at h
    rw [hctx, hblk, hrnd]
    exact ⟨h.1.congr hctx hcap hblk, h.2⟩

/-! `RunOk` by phase. -/

theorem runOk_of_idle (hp : s.phase = .idle) : RunOk s := by
  rw [RunOk, hp]; trivial

theorem runOk_absorb_iff (hp : s.phase = .absorb) : RunOk s ↔ HashRunOk s := by
  rw [RunOk, hp]

theorem runOk_round_iff (hp : s.phase = .round) : RunOk s ↔ s.ctx.op = .permute ∨ HashRunOk s := by
  rw [RunOk, hp]

theorem runOk_format_iff (hp : s.phase = .format) :
    RunOk s ↔ HashRunOk s ∧ s.blk.toNat + 1 = s.ctx.nblk.toNat ∧ s.rnd = 23 := by
  rw [RunOk, hp]

/-- R141 to R143: the engine keeps the run well formed. -/
theorem RunOk.engineStep (h : RunOk s) : RunOk (engineStep s) := by
  obtain ⟨hp, he⟩ | ⟨hp, he⟩ | ⟨hp, i, hr, hi, he⟩ | ⟨hp, hr, hop, he⟩ | ⟨hp, hr, hop, hb, he⟩ | ⟨hp, hr, hop, hb, he⟩ |
    ⟨hp, he⟩ := engineStep_cases s <;> rw [he]
  · exact h
  · exact .inr (((runOk_absorb_iff hp).1 h).congr rfl rfl rfl)
  · exact (runOk_round_iff (by exact hp)).2
      (((runOk_round_iff hp).1 h).imp_right fun hrun => hrun.congr rfl rfl rfl)
  · exact runOk_of_idle rfl
  · have hrun := ((runOk_round_iff hp).1 h).resolve_left hop
    exact (runOk_absorb_iff rfl).2 (hrun.nextBlock hb rfl rfl rfl)
  · have hrun := ((runOk_round_iff hp).1 h).resolve_left hop
    have hlast : s.blk.toNat + 1 = s.ctx.nblk.toNat := by
      have := hrun.block_index
      omega
    exact (runOk_format_iff rfl).2 ⟨hrun.congr rfl rfl rfl, hlast, Fin.ext hr⟩
  · exact runOk_of_idle rfl

end

/-- R104, R32: under a legal MSG_CAP the block count of a message that fits loses nothing in its 32 bits. -/
theorem blockCount_fits {cap L : Nat} {var : BitVec 2} (hcap : legalMsgCap cap = true) (hL : L ≤ cap) :
    (BitVec.ofNat 32 (blockCount L (rateBytes var).toNat)).toNat = blockCount L (rateBytes var).toNat := by
  have ⟨_, hle, _⟩ := (legalMsgCap_iff cap).1 hcap
  have hdiv : L / (rateBytes var).toNat ≤ L := Nat.div_le_self _ _
  exact Nat.mod_eq_of_lt (by rw [blockCount]; omega)

theorem padField_le_one (p : Padding) : (padField p).toNat ≤ 1 := by
  cases p <;> decide

/-- R131: the context that an accepted HASH latches, from its first block on. -/
theorem hashRunOk_hashContext {s t : State} {var : BitVec 2} {p : Padding} (hcap : legalMsgCap s.cap = true)
    (hfits : s.len.toNat ≤ s.cap) (hctx : t.ctx = hashContext var p s.len) (htcap : t.cap = s.cap) (hblk : t.blk = 0) :
    HashRunOk t := by
  constructor <;> rw [hctx]
  case op_hash => rfl
  case pad_legal => exact padField_le_one p
  case rate => rfl
  case output => rfl
  case domain => cases p <;> rfl
  case length_fits => rwa [htcap]
  case blocks => exact blockCount_fits hcap hfits
  case block_index =>
    rw [hblk]
    exact (Nat.succ_pos _).trans_eq (blockCount_fits hcap hfits).symm

end Sys2Proof.Machine
end

section
/-! PROOFS. The invariant: what the results that FORMAT writes are, that each effect of a step keeps the invariant, and so
every step and every run. -/

namespace Sys2Proof.Machine
open Sys2Proof.Spec

/-! ### The results -/

/-- R142, R165: the DIGEST_HEX that FORMAT writes has HEXLEN characters. -/
theorem digestOk_formatHex {s : State} {var : BitVec 2} {a : Lanes}
    (hlen : resultHexlen s.result = BitVec.ofNat 8 ((outputBits var).toNat / 4))
    (hdig : s.digestHex = formatHex a (outputBits var).toNat) : DigestOk s := by
  intro j
  rw [hlen, hexlen_toNat, hdig, formatHex_getElem]
  refine ⟨fun hj => ?_, fun hj => if_neg (Nat.not_lt.2 hj)⟩
  rw [if_pos hj]
  exact isLowerHex_hexCharAt _ _

theorem digestOk_of_zero_result {s : State} (hr : s.result = 0) (hd : s.digestHex = Vector.replicate 128 0) :
    DigestOk s := by
  intro j
  simp [hr, hd, resultHexlen]

/-- R142: the RESULT that FORMAT writes. -/
theorem resultOk_resultWord {s : State} (h : HashRunOk s) :
    ResultOk (resultWord s.ctx.nblk s.ctx.pad s.ctx.var (BitVec.ofNat 8 (s.ctx.N.toNat / 4))) := by
  have hnblk : 1 ≤ s.ctx.nblk.toNat := by
    rw [h.blocks]
    exact Nat.succ_pos _
  refine .inr ⟨by simp, by simpa using h.pad_legal, by simpa using hnblk, ?_⟩
  rw [resultHexlen_resultWord, resultVariant_resultWord, h.output, hexlen_toNat]

/-! ### The invariant -/

section
variable {s t : State}

/-- The invariant of a state whose sequencer, run context and results are those of a state that meets it. -/
theorem Inv.of_frame (hs : Inv s) (hcap : t.cap = s.cap) (hmsg : Memory.wf s.cap t.msg = true) (hbusy : t.busy = s.busy)
    (hdone : t.done = true → s.done = true) (herr : t.errcode.toNat ≤ 5) (hphase : t.phase = s.phase)
    (hrnd : t.rnd = s.rnd) (hblk : t.blk = s.blk) (hctx : t.ctx = s.ctx) (hres : t.result = s.result)
    (hdig : t.digestHex = s.digestHex) : Inv t where
  cap_legal := by rw [hcap]; exact hs.cap_legal
  msg_wf := by rw [hcap]; exact hmsg
  busy_iff := by rw [hbusy, hphase]; exact hs.busy_iff
  not_busy_and_done := fun ⟨hb, hd⟩ => hs.not_busy_and_done ⟨hbusy ▸ hb, hdone hd⟩
  errcode_legal := herr
  run_ok := hs.run_ok.congr hphase hctx hcap hblk hrnd
  result_ok := by rw [hres]; exact hs.result_ok
  digest_ok := fun j => by rw [hres, hdig]; exact hs.digest_ok j

theorem ErrCode.code_le (e : ErrCode) : e.code.toNat ≤ 5 := by
  cases e <;> decide

theorem Inv.advanced (hs : Inv s) (out : BusOut) : Inv (s.advanced out) :=
  hs.of_frame rfl hs.msg_wf rfl id hs.errcode_legal rfl rfl rfl rfl rfl rfl

theorem Inv.clearDone (hs : Inv s) : Inv { s with done := false } :=
  hs.of_frame rfl hs.msg_wf rfl (fun h => nomatch h) hs.errcode_legal rfl rfl rfl rfl rfl rfl

theorem Inv.hostRead (hs : Inv s) (off : BitVec 17) : Inv (hostRead off s) :=
  hs.of_frame rfl hs.msg_wf rfl id hs.errcode_legal rfl rfl rfl rfl rfl rfl

theorem Inv.reject (hs : Inv s) (e : ErrCode) : Inv (reject e s) :=
  hs.of_frame rfl hs.msg_wf rfl id e.code_le rfl rfl rfl rfl rfl rfl

theorem Inv.lenWrite (hs : Inv s) (v : Word) : Inv { s with len := v } :=
  hs.of_frame rfl hs.msg_wf rfl id hs.errcode_legal rfl rfl rfl rfl rfl rfl

theorem Inv.writeMsgWord (hs : Inv s) {i : Nat} (v : Word) (hi : i + 8 ≤ s.cap) : Inv (writeMsgWord i v s) :=
  hs.of_frame rfl (Memory.wf_insertWord s.cap s.msg i v hi hs.msg_wf) rfl id hs.errcode_legal rfl rfl rfl rfl rfl rfl

theorem Inv.resetBlock (hs : Inv s) : Inv (resetBlock s) where
  cap_legal := hs.cap_legal
  msg_wf := hs.msg_wf
  busy_iff := by simp
  not_busy_and_done := by simp
  errcode_legal := by simp
  run_ok := runOk_of_idle rfl
  result_ok := .inl rfl
  digest_ok := digestOk_of_zero_result rfl rfl

theorem Inv.clearResults (hs : Inv s) : Inv (clearResults s) where
  cap_legal := hs.cap_legal
  msg_wf := hs.msg_wf
  busy_iff := hs.busy_iff
  not_busy_and_done := hs.not_busy_and_done
  errcode_legal := by simp
  run_ok := hs.run_ok.congr rfl rfl rfl rfl rfl
  result_ok := .inl rfl
  digest_ok := digestOk_of_zero_result rfl rfl

theorem Inv.startPermute (hs : Inv s) (hd : s.done = false) : Inv (startPermute s) where
  cap_legal := hs.cap_legal
  msg_wf := hs.msg_wf
  busy_iff := by simp
  not_busy_and_done := by simp [hd]
  errcode_legal := by simp
  run_ok := (runOk_round_iff rfl).2 (.inl rfl)
  result_ok := hs.result_ok
  digest_ok := hs.digest_ok

theorem Inv.execHash (hs : Inv s) (hd : s.done = false) (var : BitVec 2) (p : Padding) : Inv (execHash var p s) := by
  by_cases hlen : s.cap < s.len.toNat
  · rw [execHash_of_too_long hlen]
    exact hs.reject .len
  · rw [execHash_of_fits hlen]
    exact
      { cap_legal := hs.cap_legal
        msg_wf := hs.msg_wf
        busy_iff := by simp
        not_busy_and_done := by simp [hd]
        errcode_legal := by simp
        run_ok := (runOk_absorb_iff rfl).2
          (hashRunOk_hashContext hs.cap_legal (Nat.not_lt.1 hlen) rfl rfl rfl)
        result_ok := hs.result_ok
        digest_ok := hs.digest_ok }

theorem Inv.effect (hs : Inv s) (hd : s.done = false) (i : Instr) : Inv (effect i s) := by
  obtain ⟨-, -, var, p, he⟩ | ⟨-, he⟩ | ⟨-, he⟩ := effect_cases i <;> rw [he]
  · exact hs.execHash hd var p
  · exact hs.startPermute hd
  · exact hs.clearResults

/-- R142: the FORMAT step of a run leaves well-formed results. -/
theorem results_formatStep (hrun : HashRunOk s) : ResultOk (formatStep s).result ∧ DigestOk (formatStep s) := by
  refine ⟨resultOk_resultWord hrun, digestOk_formatHex (var := s.ctx.var) (a := s.lanes) ?hexlen ?digest⟩
  case hexlen => rw [formatStep_result, resultHexlen_resultWord, hrun.output]
  case digest => rw [formatStep_digestHex, hrun.output]

/-- R25, R26: the results stay well formed, which only FORMAT writes. -/
theorem Inv.results_engineStep (hs : Inv s) : ResultOk (engineStep s).result ∧ DigestOk (engineStep s) := by
  by_cases hformat : s.phase = .format
  · rw [engineStep_format hformat]
    exact results_formatStep ((runOk_format_iff hformat).1 hs.run_ok).1
  · have hresult : (Machine.engineStep s).result = s.result := by
      by_contra hne
      exact hformat (engineStep_results_of_ne (.inl hne)).1
    have hdigest : (Machine.engineStep s).digestHex = s.digestHex := by
      by_contra hne
      exact hformat (engineStep_results_of_ne (.inr hne)).1
    refine ⟨by rw [hresult]; exact hs.result_ok, fun j => ?_⟩
    rw [hresult, hdigest]
    exact hs.digest_ok j

/-- R30: BUSY, DONE and the phase stay together, in a run and at its end. -/
theorem Inv.flags_engineStep (hs : Inv s) :
    ((engineStep s).busy = true ↔ (engineStep s).phase ≠ .idle) ∧
    ¬((engineStep s).busy = true ∧ (engineStep s).done = true) := by
  by_cases hidle : s.phase = .idle
  · rw [engineStep_idle hidle]
    exact ⟨hs.busy_iff, hs.not_busy_and_done⟩
  · obtain ⟨hp, hb, hd⟩ | ⟨hp, hb, -⟩ := engineStep_goes_on_or_ends hidle
    · rw [hb, hd]
      exact ⟨iff_of_true (hs.busy_iff.2 hidle) hp, hs.not_busy_and_done⟩
    · simp [hp, hb]

theorem Inv.engineStep (hs : Inv s) : Inv (engineStep s) where
  cap_legal := by rw [engineStep_cap]; exact hs.cap_legal
  msg_wf := by rw [engineStep_cap, engineStep_msg]; exact hs.msg_wf
  busy_iff := hs.flags_engineStep.1
  not_busy_and_done := hs.flags_engineStep.2
  errcode_legal := by rw [engineStep_errcode]; exact hs.errcode_legal
  run_ok := hs.run_ok.engineStep
  result_ok := hs.results_engineStep.1
  digest_ok := hs.results_engineStep.2

/-- Every effect of a step keeps the invariant. -/
theorem Inv.step (hs : Inv s) (h : step s = .next t) : Inv t := by
  cases stepEffect_of_step h with
  | read off _ => exact (hs.advanced _).hostRead off
  | ignoredWrite _ _ _ _ => exact hs.advanced _
  | busyCommand _ _ _ => exact (hs.advanced _).reject _
  | illegalCommand _ _ _ _ => exact (hs.advanced _).clearDone.reject _
  | command i _ _ => exact (hs.advanced _).clearDone.effect rfl i
  | busyData _ _ _ _ _ _ => exact (hs.advanced _).reject _
  | lenWrite v _ _ => exact (hs.advanced _).lenWrite v
  | msgWrite off v _ aligned above below _ =>
    have ⟨_, _, hcap⟩ := (legalMsgCap_iff s.cap).1 hs.cap_legal
    have hword : off.toNat - 0x10000 + 8 ≤ s.cap := by omega
    exact (hs.advanced _).writeMsgWord v hword
  | engine _ => exact (hs.advanced _).engineStep
  | reset _ => exact (hs.advanced _).resetBlock

theorem inv_powerOn {cap : Nat} (draw : Nat) (hcap : legalMsgCap cap = true) : Inv (State.powerOn cap draw) where
  cap_legal := hcap
  msg_wf := Memory.wf_powerOn cap draw
  busy_iff := by simp [State.powerOn]
  not_busy_and_done := by simp [State.powerOn]
  errcode_legal := by simp [State.powerOn]
  run_ok := runOk_of_idle rfl
  result_ok := .inl rfl
  digest_ok := digestOk_of_zero_result rfl rfl

/-- The invariant holds of every state that a run reaches. -/
theorem Inv.run (hs : Inv s) (n : Nat) (h : run n s = .next t) : Inv t := by
  induction n generalizing s with
  | zero => cases h; exact hs
  | succ n ih =>
    obtain ⟨s', hs'⟩ := step_answers s
    exact ih (hs.step hs') (run_succ n hs' ▸ h)

end

end Sys2Proof.Machine
end

section
/-! PROOFS. The effects of the ten commands (R131, R134, R135): what none of them writes, the code each leaves, and the
HASH rows of R86 with R170 and R171 as the model's tables. -/

namespace Sys2Proof.Machine
open Sys2Proof.Spec

/-! ### What an effect can do -/

/-- The four outcomes of a command that is issued while idle: a HASH that is too long, a HASH that starts, PERMUTE and
CLEAR. -/
theorem effect_outcomes (i : Instr) (s : State) :
    (i ≠ .permute ∧ i ≠ .clear ∧ s.cap < s.len.toNat ∧ effect i s = reject .len s) ∨
    (i ≠ .permute ∧ i ≠ .clear ∧ ∃ var p, effect i s =
      { s with
        errcode := 0, ctx := hashContext var p s.len, blk := 0, lanes := Lanes.zero, busy := true, phase := .absorb }) ∨
    (i = .permute ∧ effect i s = startPermute s) ∨ (i = .clear ∧ effect i s = clearResults s) := by
  obtain ⟨hp, hc, var, p, he⟩ | ⟨hp, he⟩ | ⟨hc, he⟩ := effect_cases i <;> rw [he]
  · by_cases hlen : s.cap < s.len.toNat
    · exact .inl ⟨hp, hc, hlen, execHash_of_too_long hlen⟩
    · exact .inr (.inl ⟨hp, hc, var, p, execHash_of_fits hlen⟩)
  · exact .inr (.inr (.inl ⟨hp, rfl⟩))
  · exact .inr (.inr (.inr ⟨hc, rfl⟩))

/-- Of the host's side a command writes ERRCODE alone. -/
theorem effect_keeps_hostSide (i : Instr) (s : State) :
    effect i s = (effect i s).withHostSide { s with errcode := (effect i s).errcode } := by
  obtain ⟨-, -, -, he⟩ | ⟨-, -, _, _, he⟩ | ⟨-, he⟩ | ⟨-, he⟩ := effect_outcomes i s <;> rw [he] <;> rfl

section
variable (i : Instr) (s : State)

@[simp] theorem effect_cap : (effect i s).cap = s.cap := (congrArg State.cap (effect_keeps_hostSide i s) :)
@[simp] theorem effect_len : (effect i s).len = s.len := (congrArg State.len (effect_keeps_hostSide i s) :)
@[simp] theorem effect_msg : (effect i s).msg = s.msg := (congrArg State.msg (effect_keeps_hostSide i s) :)
@[simp] theorem effect_msgDraw : (effect i s).msgDraw = s.msgDraw :=
  (congrArg State.msgDraw (effect_keeps_hostSide i s) :)
@[simp] theorem effect_draws : (effect i s).draws = s.draws := (congrArg State.draws (effect_keeps_hostSide i s) :)
@[simp] theorem effect_schedule : (effect i s).schedule = s.schedule :=
  (congrArg State.schedule (effect_keeps_hostSide i s) :)
@[simp] theorem effect_bus : (effect i s).bus = s.bus := (congrArg State.bus (effect_keeps_hostSide i s) :)

@[simp] theorem msgByte_effect (k : Nat) : msgByte (effect i s) k = msgByte s k := by
  rw [msgByte, effect_msg, effect_msgDraw, msgByte]

@[simp] theorem effect_done : (effect i s).done = s.done := by
  obtain ⟨-, -, -, he⟩ | ⟨-, -, _, _, he⟩ | ⟨-, he⟩ | ⟨-, he⟩ := effect_outcomes i s
  all_goals exact (congrArg State.done he :)

/-- A command leaves code 0, but for a HASH that is too long, which is rejected and changes nothing else. -/
theorem effect_errcode_cases :
    (effect i s).errcode = 0 ∨ (s.cap < s.len.toNat ∧ effect i s = reject .len s) := by
  obtain ⟨-, -, hlen, he⟩ | ⟨-, -, _, _, he⟩ | ⟨-, he⟩ | ⟨-, he⟩ := effect_outcomes i s
  · exact .inr ⟨hlen, he⟩
  all_goals exact .inl (congrArg State.errcode he :)

/-- R20: a command keeps A or zeroes it. -/
theorem effect_lanes_cases : (effect i s).lanes = s.lanes ∨ (effect i s).lanes = Lanes.zero := by
  obtain ⟨-, -, -, he⟩ | ⟨-, -, _, _, he⟩ | ⟨-, he⟩ | ⟨-, he⟩ := effect_outcomes i s <;> rw [he]
  · exact .inl rfl
  · exact .inr rfl
  · exact .inl rfl
  · exact .inr rfl

end

section
variable {i : Instr} (s : State)

/-- R25, R26: no command but CLEAR writes the results. -/
theorem effect_results (hi : i ≠ .clear) : (effect i s).result = s.result ∧ (effect i s).digestHex = s.digestHex := by
  obtain ⟨-, -, -, he⟩ | ⟨-, -, _, _, he⟩ | ⟨-, he⟩ | ⟨hc, -⟩ := effect_outcomes i s
  case inr.inr.inr => exact absurd hc hi
  all_goals
    rw [he]
    exact ⟨rfl, rfl⟩

/-- R31: no command but PERMUTE writes the round index. -/
theorem effect_rnd (hi : i ≠ .permute) : (effect i s).rnd = s.rnd := by
  obtain ⟨-, -, -, he⟩ | ⟨-, -, _, _, he⟩ | ⟨hp, -⟩ | ⟨-, he⟩ := effect_outcomes i s
  case inr.inr.inl => exact absurd hp hi
  all_goals exact (congrArg State.rnd he :)

end

/-- R88: a PERMUTE or CLEAR word with a bit in [63:4] is ILLEGAL(1). -/
theorem decode_op_with_high_bits {w : Word} (hop : w.extractLsb' 0 4 = 2 ∨ w.extractLsb' 0 4 = 3)
    (hhigh : w.extractLsb' 4 60 ≠ 0) : decode w = .error .cmd :=
  (decode_eq_error_cmd_iff w).2 ((cmdIllegalShape_iff w).1 (.inr (.inr ⟨hop, hhigh⟩)))

/-! ### exec, busy and idle -/

section
variable {s : State}

theorem exec_busy (i : Instr) (hb : s.busy = true) : exec i s = .next (reject .busy s) := by
  rw [exec_eq_issue, issue_busy _ hb]

theorem exec_idle (i : Instr) (hb : s.busy = false) : exec i s = .next (effect i { s with done := false }) := by
  rw [exec_eq_issue, issue_idle _ hb]

theorem command_eq_exec {w : Word} {i : Instr} (hd : decode w = .ok i) : command w s = exec i s := by
  cases hb : s.busy with
  | true => rw [command_busy w hb, exec_busy i hb]
  | false => rw [command_legal hb hd, exec_idle i hb]

/-- The code after a command that is issued while idle: 0, or 3 with LEN above MSG_CAP (R182). -/
theorem exec_idle_errcode {i : Instr} {s t : State} (hb : s.busy = false) (h : exec i s = .next t) :
    t.errcode = 0 ∨ (t.errcode = 3 ∧ s.cap < s.len.toNat) := by
  cases h.symm.trans (exec_idle i hb)
  obtain h0 | ⟨hlen, he⟩ := effect_errcode_cases i { s with done := false }
  · exact .inl h0
  · exact .inr ⟨by rw [he]; rfl, hlen⟩

theorem command_done {w : Word} {s t : State} (hb : s.busy = false) (h : command w s = .next t) : t.done = false := by
  cases hd : decode w with
  | error e => cases h.symm.trans (command_illegal hb hd); rfl
  | ok i => cases h.symm.trans (command_legal hb hd); exact effect_done i _

theorem exec_permute_idle (hb : s.busy = false) : exec .permute s = .next (permuteStarted s) := exec_idle .permute hb

theorem exec_clear_idle (hb : s.busy = false) : exec .clear s = .next (cleared s) := exec_idle .clear hb

end

/-! ### The HASH rows -/

section
variable {r : HashRow}

/-- R86: the command of a row is the HASH of its VARIANT and padding, with that padding's domain byte (R171). -/
theorem hashRow_instr (hr : r ∈ hashRows) :
    (r.instr = sha3Instr r.var ∧ r.pad = padField .sha3 ∧ r.dom = domainByte .sha3) ∨
    (r.instr = keccakInstr r.var ∧ r.pad = padField .keccak ∧ r.dom = domainByte .keccak) := by
  revert r; decide

theorem hashRow_effect (hr : r ∈ hashRows) :
    ∃ p, effect r.instr = execHash r.var p ∧ r.pad = padField p ∧ r.dom = domainByte p := by
  obtain ⟨hi, hpad, hdom⟩ | ⟨hi, hpad, hdom⟩ := hashRow_instr hr
  · exact ⟨.sha3, by rw [hi, effect_sha3Instr], hpad, hdom⟩
  · exact ⟨.keccak, by rw [hi, effect_keccakInstr], hpad, hdom⟩

/-- R170: a row's rate and output length are its VARIANT's. -/
theorem hashRow_tables (hr : r ∈ hashRows) :
    rateBytes r.var = BitVec.ofNat 8 r.rate ∧ outputBits r.var = BitVec.ofNat 10 r.bits := by
  revert r; decide

theorem hashRow_rate (hr : r ∈ hashRows) : (BitVec.ofNat 8 r.rate).toNat = r.rate ∧ 0 < r.rate := by
  revert r; decide

theorem hashRow_bits (hr : r ∈ hashRows) : (BitVec.ofNat 10 r.bits).toNat = r.bits := by
  revert r; decide

/-- R131: the context that a row's command latches is that of the row. -/
theorem hashContext_of_row (hr : r ∈ hashRows) {p : Padding} (hpad : r.pad = padField p) (hdom : r.dom = domainByte p)
    (s : State) : hashContext r.var p s.len = (hashStarted r s).ctx := by
  obtain ⟨hrate, hbits⟩ := hashRow_tables hr
  simp only [hashContext, hashStarted, hpad, hdom, hrate, hbits, blockCount, (hashRow_rate hr).1]

section
variable {s : State}

theorem exec_hashRow_fits (hr : r ∈ hashRows) (hb : s.busy = false) (hlen : s.len.toNat ≤ s.cap) :
    exec r.instr s = .next (hashStarted r s) := by
  obtain ⟨p, he, hpad, hdom⟩ := hashRow_effect hr
  rw [exec_idle _ hb, he, execHash_of_fits (s := { s with done := false }) (Nat.not_lt.2 hlen),
    hashContext_of_row hr hpad hdom]
  rfl

theorem exec_hashRow_too_long (hr : r ∈ hashRows) (hb : s.busy = false) (hlen : s.cap < s.len.toNat) :
    exec r.instr s = .next { s with done := false, errcode := 3 } := by
  obtain ⟨p, he, -, -⟩ := hashRow_effect hr
  rw [exec_idle _ hb, he, execHash_of_too_long (s := { s with done := false }) hlen]
  rfl

theorem hashStarted_R (hr : r ∈ hashRows) (s : State) : (hashStarted r s).ctx.R.toNat = r.rate := (hashRow_rate hr).1

theorem hashStarted_N (hr : r ∈ hashRows) (s : State) : (hashStarted r s).ctx.N.toNat = r.bits := hashRow_bits hr

/-- The block count of an accepted HASH is exact in its 32 bits. -/
theorem hashStarted_nblk (hr : r ∈ hashRows) (hcap : legalMsgCap s.cap = true) (hlen : s.len.toNat ≤ s.cap) :
    (hashStarted r s).ctx.nblk.toNat = s.len.toNat / r.rate + 1 := by
  have hrate : (rateBytes r.var).toNat = r.rate := by rw [(hashRow_tables hr).1, (hashRow_rate hr).1]
  have hfits := blockCount_fits (var := r.var) hcap hlen
  rwa [hrate] at hfits

theorem hashRunOk_hashStarted (hr : r ∈ hashRows) (hcap : legalMsgCap s.cap = true) (hlen : s.len.toNat ≤ s.cap) :
    HashRunOk (hashStarted r s) := by
  obtain ⟨p, -, hpad, hdom⟩ := hashRow_effect hr
  exact hashRunOk_hashContext hcap hlen (hashContext_of_row hr hpad hdom s).symm rfl rfl

end

end

end Sys2Proof.Machine
end

section
/-! PROOFS. Runs of the engine (R144): the steps a run still takes, what the last one does, and the engine alone under the
empty schedule. -/

namespace Sys2Proof.Machine
open Sys2Proof.Spec

section
variable {s : State}

theorem engineSteps_succ (n : Nat) (s : State) : engineSteps (n + 1) s = engineSteps n (engineStep s) := rfl

theorem engineSteps_add (m n : Nat) (s : State) : engineSteps (m + n) s = engineSteps n (engineSteps m s) := by
  induction m generalizing s with
  | zero => rw [Nat.zero_add]; rfl
  | succ m ih => rw [Nat.succ_add]; exact ih (engineStep s)

theorem engineSteps_keeps_hostSide (n : Nat) (s : State) : engineSteps n s = (engineSteps n s).withHostSide s := by
  induction n generalizing s with
  | zero => rfl
  | succ n ih =>
    have hside : (engineStep s).withHostSide s = engineStep s := (engineStep_keeps_hostSide s).symm
    rw [engineSteps_succ, ih (engineStep s), ← hside]
    rfl

/-! ### The end of a run -/

theorem engineStepsLeft_eq_zero_iff : engineStepsLeft s = 0 ↔ s.phase = .idle := by
  unfold engineStepsLeft
  have := s.rnd.isLt
  cases s.phase <;> simp
  omega

/-- R144: every step of a run is one of the steps it still takes. -/
theorem engineStepsLeft_engineStep (hrun : RunOk s) (hp : s.phase ≠ .idle) :
    engineStepsLeft s = engineStepsLeft (engineStep s) + 1 := by
  obtain ⟨hi, -⟩ | ⟨hp', he⟩ | ⟨hp', i, hr, hi, he⟩ | ⟨hp', hr, hop, he⟩ | ⟨hp', hr, hop, hb, he⟩ |
    ⟨hp', hr, hop, hb, he⟩ | ⟨hp', he⟩ := engineStep_cases s
  · exact absurd hi hp
  all_goals rw [he]
  · obtain ⟨hop, -, -, -, -, -, -, hblk⟩ := (runOk_absorb_iff hp').1 hrun
    simp [engineStepsLeft, hp', hop]
    omega
  · simp only [engineStepsLeft, hp']
    omega
  · simp [engineStepsLeft, hp', hr, hop]
  · simp only [engineStepsLeft, hp', hr, if_neg hop, blk_succ_toNat hb]
    omega
  · simp only [engineStepsLeft, hp', hr, if_neg hop]
    omega
  · simp [engineStepsLeft, hp']

/-- A run in progress. -/
structure InRun (s : State) : Prop where
  busy : s.busy = true
  phase : s.phase ≠ .idle
  run_ok : RunOk s

theorem Inv.inRun (hs : Inv s) (hb : s.busy = true) : InRun s := ⟨hb, hs.busy_iff.1 hb, hs.run_ok⟩

theorem InRun.engineStep (h : InRun s) (hleft : 1 < engineStepsLeft s) : InRun (engineStep s) := by
  have hcount := engineStepsLeft_engineStep h.run_ok h.phase
  obtain ⟨hp, hb, -⟩ | ⟨hp, -, -⟩ := engineStep_goes_on_or_ends h.phase
  · exact ⟨hb.trans h.busy, hp, h.run_ok.engineStep⟩
  · have := engineStepsLeft_eq_zero_iff.2 hp
    omega

/-- R144: a run is busy before each of the steps it still takes. -/
theorem InRun.engineSteps_busy (h : InRun s) {n : Nat} (hn : n < engineStepsLeft s) :
    (engineSteps n s).busy = true := by
  induction n generalizing s with
  | zero => exact h.busy
  | succ n ih =>
    have hcount := engineStepsLeft_engineStep h.run_ok h.phase
    exact ih (h.engineStep (by omega)) (by omega)

/-- R144: the last of the steps it still takes ends a run. -/
theorem InRun.engineSteps_end (h : InRun s) :
    (engineSteps (engineStepsLeft s) s).busy = false ∧ (engineSteps (engineStepsLeft s) s).done = true := by
  generalize hn : engineStepsLeft s = n
  induction n generalizing s with
  | zero => exact absurd (engineStepsLeft_eq_zero_iff.1 hn) h.phase
  | succ n ih =>
    have hcount := engineStepsLeft_engineStep h.run_ok h.phase
    rw [engineSteps_succ]
    cases n with
    | zero =>
      have hidle : (Machine.engineStep s).phase = .idle := engineStepsLeft_eq_zero_iff.1 (by omega)
      obtain ⟨hp, -⟩ | ⟨-, hb, hd⟩ := engineStep_goes_on_or_ends h.phase
      · exact absurd hidle hp
      · exact ⟨hb, hd⟩
    | succ n => exact ih (h.engineStep (by omega)) (by omega)

end

/-! ### The start of a run -/

theorem inRun_hashStarted {r : HashRow} (hr : r ∈ hashRows) {s : State} (hcap : legalMsgCap s.cap = true)
    (hlen : s.len.toNat ≤ s.cap) : InRun (hashStarted r s) :=
  ⟨rfl, nofun, (runOk_absorb_iff rfl).2 (hashRunOk_hashStarted hr hcap hlen)⟩

theorem engineStepsLeft_hashStarted {r : HashRow} (hr : r ∈ hashRows) {s : State} (hcap : legalMsgCap s.cap = true)
    (hlen : s.len.toNat ≤ s.cap) : engineStepsLeft (hashStarted r s) = (s.len.toNat / r.rate + 1) * 25 + 1 := by
  have hblk : (hashStarted r s).blk.toNat = 0 := rfl
  have hphase : (hashStarted r s).phase = .absorb := rfl
  rw [engineStepsLeft, hphase]
  simp only [hblk, hashStarted_nblk hr hcap hlen]
  omega

theorem engineStepsLeft_permuteStarted (s : State) : engineStepsLeft (permuteStarted s) = 24 := rfl

/-! ### The engine under the empty schedule -/

theorem engineSteps_setBus (n : Nat) (s : State) (out : BusOut) :
    engineSteps n { s with bus := out } = { engineSteps n s with bus := out } := by
  induction n generalizing s with
  | zero => rfl
  | succ n ih => rw [engineSteps_succ, engineStep_setBus, ih, engineSteps_succ]

/-- With nothing scheduled the engine runs alone, and the bus shows nothing. -/
theorem run_of_empty_schedule {s : State} (h : s.schedule = []) (n : Nat) :
    run (n + 1) s = .next { engineSteps (n + 1) s with bus := .quiet } := by
  induction n generalizing s with
  | zero =>
    rw [run_succ 0 (step_of_empty_schedule h), engineStep_setBus]
    rfl
  | succ n ih =>
    have hsched : (engineStep { s with bus := .quiet }).schedule = [] := (engineStep_schedule _).trans h
    rw [run_succ _ (step_of_empty_schedule h), ih hsched, engineStep_setBus, engineSteps_setBus,
      engineSteps_succ (n + 1) s]

end Sys2Proof.Machine
end

section
/-! PROOFS. The padded message (R100 to R105): the padding bytes as P of R103 reads them, and its length. -/

namespace Sys2Proof.Machine

/-- R100, R104: L and its padding are nblk whole blocks. -/
theorem blocks_eq_length_add_padLength (L : Nat) {R : Nat} (hR : 0 < R) : (L / R + 1) * R = L + padLength L R := by
  have hmod := Nat.mod_lt L hR
  have hdiv := Nat.div_add_mod L R
  rw [padLength, Nat.add_mul, Nat.one_mul, Nat.mul_comm]
  omega

section
variable {L R : Nat} {d : Byte}

theorem padBytes_of_one (h : padLength L R = 1) : padBytes L R d = [d ||| 0x80] := if_pos h

theorem padBytes_of_two_le (h : 2 ≤ padLength L R) :
    padBytes L R d = [d] ++ List.replicate (padLength L R - 2) 0x00 ++ [0x80] := if_neg (by omega)

theorem length_padBytes (hR : 0 < R) : (padBytes L R d).length = padLength L R := by
  have hpos := padLength_pos (L := L) hR
  by_cases h1 : padLength L R = 1
  · rw [padBytes_of_one h1, h1]; rfl
  · rw [padBytes_of_two_le (by omega)]
    simp
    omega

/-- After the domain byte the padding is zeros up to the closing 0x80 (R102). -/
theorem getD_zeros_then_last (n j : Nat) :
    (List.replicate n (0x00 : Byte) ++ [0x80]).getD j 0 = if j = n then 0x80 else 0x00 := by
  induction n generalizing j with
  | zero => cases j <;> simp
  | succ n ih =>
    cases j with
    | zero => rfl
    | succ j => simpa [List.replicate_succ] using ih j

/-- R101 to R103: the padding bytes, one by one. -/
theorem getD_padBytes {j : Nat} (hj : j < padLength L R) :
    (padBytes L R d).getD j 0 = padByte (padLength L R) d j := by
  by_cases h1 : padLength L R = 1
  · obtain rfl : j = 0 := by omega
    rw [padBytes_of_one h1, padByte, if_pos h1]; rfl
  · rw [padBytes_of_two_le (by omega), padByte, if_neg h1]
    cases j with
    | zero => rfl
    | succ j =>
      have hlast : j + 1 = padLength L R - 1 ↔ j = padLength L R - 2 := by omega
      simp only [hlast, Nat.succ_ne_zero, if_false]
      exact getD_zeros_then_last _ j

/-- R101, R102: the last padding byte. -/
theorem getLast?_padBytes (hR : 0 < R) :
    (padBytes L R d).getLast? = some (if padLength L R = 1 then d ||| 0x80 else 0x80) := by
  have hpos := padLength_pos (L := L) hR
  by_cases h1 : padLength L R = 1
  · rw [padBytes_of_one h1, if_pos h1]; rfl
  · rw [padBytes_of_two_le (by omega), if_neg h1, List.getLast?_concat]

end

section
variable (M : List Byte) {R : Nat} (d : Byte)

theorem length_paddedMessage (hR : 0 < R) : (paddedMessage M R d).length = (M.length / R + 1) * R := by
  rw [paddedMessage, List.length_append, length_padBytes hR, blocks_eq_length_add_padLength _ hR]

theorem getD_paddedMessage_message {i : Nat} (hi : i < M.length) : (paddedMessage M R d).getD i 0 = M.getD i 0 :=
  List.getD_append _ _ _ _ hi

theorem getD_paddedMessage_padding {i : Nat} (hi : M.length ≤ i) :
    (paddedMessage M R d).getD i 0 = (padBytes M.length R d).getD (i - M.length) 0 :=
  List.getD_append_right _ _ _ _ hi

/-- R103: P reads the padded message, from any buffer that holds the message. -/
theorem paddedByte_eq_getD (hR : 0 < R) {msg : Nat → Byte} (hmsg : ∀ j < M.length, msg j = M.getD j 0) {i : Nat}
    (hi : i < (M.length / R + 1) * R) :
    paddedByte msg M.length ((M.length / R + 1) * R - M.length) d i = (paddedMessage M R d).getD i 0 := by
  have hblocks : (M.length / R + 1) * R = M.length + padLength M.length R := blocks_eq_length_add_padLength _ hR
  have hq : (M.length / R + 1) * R - M.length = padLength M.length R := by omega
  rw [hq, paddedByte]
  by_cases hm : i < M.length
  · rw [if_pos hm, getD_paddedMessage_message M d hm, hmsg i hm]
  · rw [if_neg hm, getD_paddedMessage_padding M d (by omega), getD_padBytes (by omega)]

end

end Sys2Proof.Machine
end


section
/-! PROOFS. What a step shows of STATUS (R23, R186): the fields of the word, data writes by their offset, and how DONE
moves. -/

namespace Sys2Proof.Machine
open Sys2Proof.Spec

/-- The fields of a STATUS word (R23), whatever BUSY, DONE and ERRCODE are. -/
theorem statusWord_fields (s : State) :
    (statusWord s).getLsbD 0 = s.busy ∧ (statusWord s).getLsbD 1 = s.done ∧
    (statusWord s).extractLsb' 2 2 = 0 ∧ (statusWord s).extractLsb' 4 4 = s.errcode ∧
    (statusWord s).extractLsb' 8 56 = 0 := by
  unfold statusWord
  generalize s.busy = busy, s.done = done, s.errcode = errcode
  revert busy done errcode
  decide

/-- A turn that writes an aligned data offset is a data write. -/
theorem isDataWrite_of_offset {cap : Nat} {off : BitVec 17} (v : Word) (hal : off.toNat % 8 = 0)
    (hdata : dataOffset cap off.toNat) : isDataWrite cap (.host (.write off v)) = true := by
  have hoff : off = 0x020 ∨ (0x10000 ≤ off.toNat ∧ off.toNat < 0x10000 + cap) :=
    hdata.imp_left fun h => BitVec.eq_of_toNat_eq h
  simpa [isDataWrite, hal] using hoff

/-- R186: an engine step that changes DONE raises it, as the last step of a run. -/
theorem engineStep_done_cases {s : State} (hrun : RunOk s) :
    (engineStep s).done = s.done ∨
    (s.phase ≠ .idle ∧ (engineStep s).done = true ∧ (engineStep s).busy = false ∧ engineStepsLeft s = 1) := by
  by_cases hp : s.phase = .idle
  · exact .inl (by rw [engineStep_idle hp])
  · obtain ⟨-, -, hd⟩ | ⟨hidle, hb, hd⟩ := engineStep_goes_on_or_ends hp
    · exact .inl hd
    · have hleft := engineStepsLeft_engineStep hrun hp
      rw [engineStepsLeft_eq_zero_iff.2 hidle] at hleft
      exact .inr ⟨hp, hd, hb, hleft⟩

/-- What a step does to DONE (R186): it leaves it, no command write among it while BUSY = 0; it lowers it, by a reset or
a command write while BUSY = 0; or it raises it, as the last engine step of a run. -/
theorem step_done_cases {s t : State} (hs : Inv s) (h : step s = .next t) :
    (t.done = s.done ∧ (isCommandWrite (nextTurn s) = true → s.busy = true)) ∨
    (t.done = false ∧ (nextTurn s = .reset ∨ (isCommandWrite (nextTurn s) = true ∧ s.busy = false))) ∨
    (t.done = true ∧ nextTurn s = .engine ∧ s.busy = true ∧ t.busy = false ∧ engineStepsLeft s = 1) := by
  cases stepEffect_of_step h with
  | read _ turn => exact .inl ⟨rfl, by rw [turn]; exact nofun⟩
  | ignoredWrite _ _ turn other => exact .inl ⟨rfl, by rw [turn]; exact fun hcmd => absurd (beq_iff_eq.1 hcmd) other⟩
  | busyCommand _ _ busy => exact .inl ⟨rfl, fun _ => busy⟩
  | illegalCommand _ _ turn idle => exact .inr (.inl ⟨rfl, .inr ⟨by rw [turn]; rfl, idle⟩⟩)
  | command i turn idle => exact .inr (.inl ⟨effect_done i _, .inr ⟨by rw [turn]; rfl, idle⟩⟩)
  | busyData _ _ _ _ _ busy => exact .inl ⟨rfl, fun _ => busy⟩
  | lenWrite _ turn _ => exact .inl ⟨rfl, by rw [turn]; exact nofun⟩
  | msgWrite off _ turn _ above _ _ =>
    have other : off ≠ 0x010 := by rintro rfl; exact absurd above (by decide)
    exact .inl ⟨rfl, by rw [turn]; exact fun hcmd => absurd (beq_iff_eq.1 hcmd) other⟩
  | engine turn =>
    obtain hd | ⟨hp, hd, hb, hleft⟩ := engineStep_done_cases (s := s.advanced .quiet) (hs.advanced _).run_ok
    · exact .inl ⟨hd, by rw [turn]; exact nofun⟩
    · exact .inr (.inr ⟨hd, turn, hs.busy_iff.2 hp, hb, hleft⟩)
  | reset turn => exact .inr (.inl ⟨rfl, .inl turn⟩)

end Sys2Proof.Machine
end

section
/-! PROOFS. The statements of spec/30_encoding.md on the encoder, and of every document on what all steps keep and which
step may write what (R20 to R32, R165, R180 to R188). -/

namespace Sys2Proof.Proofs
open Sys2Proof.Machine Sys2Proof.Spec

/-! ### The encoder -/

theorem encoded (i : Instr) : Laws.Encoded.Statement i := by
  cases i with
  | hashSha3_224 => exact Laws.Encoded.hashSha3_224
  | hashSha3_256 => exact Laws.Encoded.hashSha3_256
  | hashSha3_384 => exact Laws.Encoded.hashSha3_384
  | hashSha3_512 => exact Laws.Encoded.hashSha3_512
  | hashKeccak_224 => exact Laws.Encoded.hashKeccak_224
  | hashKeccak_256 => exact Laws.Encoded.hashKeccak_256
  | hashKeccak_384 => exact Laws.Encoded.hashKeccak_384
  | hashKeccak_512 => exact Laws.Encoded.hashKeccak_512
  | permute => exact Laws.Encoded.permute
  | clear => exact Laws.Encoded.clear

/-- Settles O3: each command by its own law of the table of R86, and the decoder's cases the other way. -/
theorem decodeAndEncodeAgree : Obligations.DecodeAndEncodeAgree :=
  ⟨encoded, fun _ _ => encode_of_decode⟩

/-- Settles O1: the printed words are the encodings, row by row of the table. -/
theorem tableWordsAreTheirCommands : Obligations.TableWordsAreTheirCommands := by
  unfold Obligations.TableWordsAreTheirCommands
  decide

/-! ### The invariant -/

/-- Settles O47: every effect of a step keeps the invariant. -/
theorem everyStepKeepsTheInvariant : Obligations.EveryStepKeepsTheInvariant := fun _ _ => Inv.step

/-- Settles O46: every register of a block at power-on is 0 and its phase is IDLE. -/
theorem powerOnMeetsTheInvariant : Obligations.PowerOnMeetsTheInvariant :=
  ⟨inv_powerOn 0 (by decide), fun _ draw hcap => inv_powerOn draw hcap⟩

/-- Settles O49: the invariant holds at power-on under every schedule, and every step keeps it. -/
theorem busyExactlyWhenPhaseIsNotIdle : Obligations.BusyExactlyWhenPhaseIsNotIdle := by
  intro cap draw n turns t hcap hrun
  have hstart : Inv { State.powerOn cap draw with schedule := turns } :=
    have h := inv_powerOn draw hcap
    h.of_frame rfl h.msg_wf rfl id h.errcode_legal rfl rfl rfl rfl rfl rfl
  have ht := hstart.run n hrun
  exact ⟨ht.busy_iff, ht.not_busy_and_done⟩

/-- Settles O48: every turn answers. -/
theorem noStepFaultsOrIsRefused : Obligations.NoStepFaultsOrIsRefused := step_answers

/-! ### Which step writes what -/

/-- Settles O21: of the effects of a step only a reset, a command and a rejection write ERRCODE. -/
theorem errcodeChangesOnlyByHostOrReset : Obligations.ErrcodeChangesOnlyByHostOrReset := by
  refine ⟨fun s t h hne => ?step, engineStep_errcode, resetBlock_errcode, fun s t i hb h => exec_idle_errcode hb h⟩
  cases stepEffect_of_step h with
  | read _ _ => exact absurd rfl hne
  | ignoredWrite _ _ _ _ => exact absurd rfl hne
  | busyCommand _ turn _ => exact .inr (.inl (by rw [turn]; rfl))
  | illegalCommand _ _ turn _ => exact .inr (.inl (by rw [turn]; rfl))
  | command _ turn _ => exact .inr (.inl (by rw [turn]; rfl))
  | busyData off v turn aligned data busy =>
    exact .inr (.inr ⟨by rw [turn]; exact isDataWrite_of_offset v aligned data, busy, rfl⟩)
  | lenWrite _ _ _ => exact absurd rfl hne
  | msgWrite _ _ _ _ _ _ _ => exact absurd rfl hne
  | engine _ => exact absurd (engineStep_errcode _) hne
  | reset turn => exact .inl ⟨turn, rfl⟩

/-- Settles O50: of the effects of a step only a reset, a command and an engine step write A or the results; a command
that changes A zeroes it, and only CLEAR writes the results. -/
theorem onlyTheseStepsWriteLanesAndResults : Obligations.OnlyTheseStepsWriteLanesAndResults := by
  intro s t h
  cases stepEffect_of_step h with
  | command i turn idle =>
    refine ⟨fun hne => .inr (.inl ⟨by rw [turn]; rfl, idle, ?_⟩), fun hne => .inr (.inl ?_)⟩
    · exact (effect_lanes_cases i _).resolve_left hne
    · by_cases hi : i = .clear
      · exact ⟨by rw [turn, hi], idle⟩
      · obtain ⟨hres, hdig⟩ := effect_results { s.advanced .ack with done := false } hi
        exact absurd hne (not_or.2 ⟨not_not.2 hres, not_not.2 hdig⟩)
  | engine turn =>
    exact ⟨fun hne => .inr (.inr ⟨turn, engineStep_lanes_of_ne (s := s.advanced .quiet) hne⟩),
      fun hne => .inr (.inr ⟨turn, engineStep_results_of_ne (s := s.advanced .quiet) hne⟩)⟩
  | reset turn => exact ⟨fun _ => .inl turn, fun _ => .inl turn⟩
  | read _ _ | ignoredWrite _ _ _ _ | busyCommand _ _ _ | illegalCommand _ _ _ _ | busyData _ _ _ _ _ _
  | lenWrite _ _ _ | msgWrite _ _ _ _ _ _ _ =>
    exact ⟨absurd rfl, fun hne => absurd hne (not_or.2 ⟨not_not.2 rfl, not_not.2 rfl⟩)⟩

/-- Settles O51: of the effects of a step only a LEN write and a reset write LEN, and only a MSG write changes a byte of
MSG, one of the eight of its word. -/
theorem onlyIdleHostWritesChangeLenAndMsg : Obligations.OnlyIdleHostWritesChangeLenAndMsg := by
  intro s t h
  cases stepEffect_of_step h with
  | command i _ _ =>
    exact ⟨absurd (effect_len i _), fun k => absurd (msgByte_effect i _ k), effect_cap i _, effect_msgDraw i _⟩
  | lenWrite v turn idle =>
    exact ⟨fun _ => .inr ⟨v, turn, idle, rfl⟩, fun _ => absurd rfl, rfl, rfl⟩
  | msgWrite off v turn aligned above _ idle =>
    refine ⟨absurd rfl, fun i hne => ⟨off, v, turn, idle, aligned, ?_⟩, rfl, rfl⟩
    rw [msgByte_writeMsgWord] at hne ⊢
    by_cases hin : off.toNat - 0x10000 ≤ i ∧ i < off.toNat - 0x10000 + 8
    · rw [if_pos hin, show i - (off.toNat - 0x10000) = 0x10000 + i - off.toNat by omega]
      exact ⟨by omega, by omega, rfl⟩
    · rw [if_neg hin] at hne
      exact absurd rfl hne
  | engine _ =>
    exact ⟨absurd (engineStep_len _), fun k => absurd (msgByte_engineStep _ k), engineStep_cap _, engineStep_msgDraw _⟩
  | reset turn => exact ⟨fun _ => .inl turn, fun _ => absurd rfl, rfl, rfl⟩
  | read _ _ | ignoredWrite _ _ _ _ | busyCommand _ _ _ | illegalCommand _ _ _ _ | busyData _ _ _ _ _ _ =>
    exact ⟨absurd rfl, fun _ => absurd rfl, rfl, rfl⟩

/-- Settles O52: the commands come while idle, and the engine never writes the run context. -/
theorem runContextIsConstantDuringARun : Obligations.RunContextIsConstantDuringARun := by
  intro s t hb hturn h
  cases stepEffect_of_step h with
  | command _ _ idle => exact absurd hb (by simp [idle])
  | engine _ => exact engineStep_ctx _
  | reset turn => exact absurd turn hturn
  | read _ _ | ignoredWrite _ _ _ _ | busyCommand _ _ _ | illegalCommand _ _ _ _ | busyData _ _ _ _ _ _
  | lenWrite _ _ _ | msgWrite _ _ _ _ _ _ _ => rfl

/-- Settles O53: each clause in the three cases of a step's DONE. -/
theorem doneOutputEdges : Obligations.DoneOutputEdges := by
  intro s t hs h
  unfold doneOut
  obtain ⟨hd, hcmd⟩ | ⟨hd, hturn⟩ | ⟨hd, hturn, hend⟩ := step_done_cases hs h
  · exact ⟨fun h0 h1 => by simp [hd, h0] at h1, fun h1 h0 => by simp [hd, h1] at h0,
      fun hc hb => by simp [hcmd hc] at hb⟩
  · exact ⟨fun _ h1 => by simp [hd] at h1, fun _ _ => hturn, fun _ _ => hd⟩
  · exact ⟨fun _ _ => ⟨hturn, hend⟩, fun _ h0 => by simp [hd] at h0, fun hc => by simp [hturn, isCommandWrite] at hc⟩

end Sys2Proof.Proofs
end

section
/-! PROOFS. The statements of spec/10_state.md, spec/42_sponge_fsm.md and spec/60_exceptions.md on one turn of the host:
which turn a step takes, the STATUS word, the commands, and the rejections. -/

namespace Sys2Proof.Proofs
open Sys2Proof.Machine Sys2Proof.Spec

/-! ### The turn of a step -/

/-- Settles O5: a step takes the turn at the head of the schedule, and each turn is one equation. -/
theorem stepTakesTheNextTurn : Obligations.StepTakesTheNextTurn := fun _ _ =>
  ⟨fun _ h => step_of_schedule h, fun _ _ h => step_of_schedule h, step_of_schedule, step_of_schedule,
    step_of_empty_schedule⟩

/-- Settles O6: a write of a legal word to CMD is exec of its command, busy or not. -/
theorem stepRunsTheDecodedCommand : Obligations.StepRunsTheDecodedCommand := by
  intro s rest w i hd
  refine ⟨fun h => (step_of_schedule h).trans (command_eq_exec hd), ?_⟩
  have hw : BitVec.ofNat 64 (w.toNat % 2 ^ 64) = w := by
    rw [Nat.mod_eq_of_lt w.isLt, BitVec.ofNat_toNat, BitVec.setWidth_eq]
  have hsched : (s.withFetchWord 64 w.toNat).schedule = commandTurn w :: s.schedule := by
    rw [withFetchWord_schedule, hw]
  exact (step_of_schedule hsched).trans (command_eq_exec hd)

/-! ### STATUS -/

/-- Settles O12: the STATUS word's fields, and the outputs as the levels of its flags. -/
theorem statusWordLayout : Obligations.StatusWordLayout := by
  intro s
  obtain ⟨hbusy, hdone, hlow, herr, hhigh⟩ := statusWord_fields s
  exact ⟨hbusy, hdone, hlow, herr, hhigh, rfl, rfl, bne_iff_ne⟩

/-! ### Commands -/

/-- Settles O13: busy, illegal and legal are the three cases of Command(w), and none leaves DONE set. -/
theorem commandWriteByCases : Obligations.CommandWriteByCases := by
  refine fun s w => ⟨command_busy w, fun hb e hd => ?illegal, fun _ _ hd => command_eq_exec hd, fun hb => ?done⟩
  case illegal =>
    rw [command_illegal hb hd]
    cases e <;> rfl
  case done =>
    obtain ⟨t, ht⟩ := command_answers w s
    exact ⟨t, ht, command_done hb ht⟩

/-- Settles O15: an illegal word is rejected, and of the commands only a HASH whose LEN is too large leaves a code, as a
rejection. -/
theorem rejectionIsPrecise : Obligations.RejectionIsPrecise := by
  intro s t w hb h hne
  rw [memWrite_cmd] at h
  cases hd : decode w with
  | error e => cases h.symm.trans (command_illegal hb hd); rfl
  | ok i =>
    cases h.symm.trans (command_legal hb hd)
    obtain h0 | ⟨-, he⟩ := effect_errcode_cases i { s with done := false }
    · exact absurd h0 hne
    · rw [he]; rfl

/-- Settles O16: the two branches of a HASH row's command, and that the engine does not read LEN. -/
theorem hashStartsUnlessLenExceedsCapacity : Obligations.HashStartsUnlessLenExceedsCapacity :=
  ⟨fun _ hr _ hb => ⟨exec_hashRow_fits hr hb, exec_hashRow_too_long hr hb⟩, engineStep_setLen⟩

/-- Settles O17: the latched count is that of R104, with no bit lost. -/
theorem latchedBlockCountIsExact : Obligations.LatchedBlockCountIsExact := by
  intro r hr s hcap hb hlen
  have hnblk := hashStarted_nblk hr hcap hlen
  refine ⟨_, exec_hashRow_fits hr hb hlen, hnblk, ?_⟩
  rw [hnblk, blocks_eq_length_add_padLength _ (hashRow_rate hr).2, padLength]

/-- Settles O18: issued while idle, PERMUTE is its effect on the state with DONE cleared. -/
theorem permuteStarts : Obligations.PermuteStarts := fun _ => exec_permute_idle

/-- Settles O19: issued while idle, CLEAR is its effect on the state with DONE cleared, where a second CLEAR finds nothing
to change. -/
theorem clearZeroesWithinTheWrite : Obligations.ClearZeroesWithinTheWrite :=
  ⟨fun _ => exec_clear_idle, fun s hb => exec_clear_idle (s := cleared s) hb, fun _ => exec_busy .clear,
    fun _ _ hb hop hhigh => command_illegal hb (decode_op_with_high_bits (.inr hop) hhigh)⟩

/-- Settles O20: one equation for each kind of write while BUSY = 1; a read leaves STATUS. -/
theorem busyRejections : Obligations.BusyRejections := by
  intro s hb hcap
  refine ⟨fun w => command_busy w hb, fun i => exec_busy i hb,
    fun v => memWrite_data_busy v (by decide) (by decide) (.inl rfl) hb,
    fun m v hm => memWrite_data_busy v (by omega) (msgOffset_lt hcap hm) (dataOffset_msg hm) hb,
    fun off v h => h.elim (memWrite_readOnly v s) (memWrite_unmapped v s),
    fun off rest hsched => ⟨_, step_of_schedule hsched, rfl, hb, rfl⟩⟩

/-- Settles O22: a command that is rejected changes ERRCODE alone; an accepted one has the frame of its effect. -/
theorem commandFrames : Obligations.CommandFrames := by
  intro i s t h
  cases hb : s.busy with
  | true =>
    cases h.symm.trans (exec_busy i hb)
    exact ⟨fun _ => rfl, rfl, rfl, rfl, rfl, rfl, rfl, rfl, fun _ => ⟨rfl, rfl⟩, fun _ => ⟨rfl, rfl, rfl⟩,
      fun _ => ⟨rfl, rfl, rfl, rfl, hb⟩, fun _ => rfl⟩
  | false =>
    cases h.symm.trans (exec_idle i hb)
    refine ⟨msgByte_effect i _, effect_msg i _, effect_len i _, effect_cap i _, effect_msgDraw i _, effect_draws i _,
      effect_schedule i _, effect_bus i _, effect_results _, ?permute, ?clear, effect_rnd _⟩
    case permute =>
      rintro rfl
      exact ⟨rfl, rfl, rfl⟩
    case clear =>
      rintro rfl
      exact ⟨rfl, rfl, rfl, rfl, hb⟩

end Sys2Proof.Proofs
end

section
/-! PROOFS. The statements of spec/42_sponge_fsm.md and spec/43_digest_formatter.md on the engine's steps and on what the
FORMAT step writes. -/

namespace Sys2Proof.Proofs
open Sys2Proof.Machine Sys2Proof.Spec

/-- Settles O35: the lane is of the rate, and the bytes of P in it are those of the word. -/
theorem hostWordIsTheAbsorbedLane : Obligations.HostWordIsTheAbsorbedLane := by
  intro s x y v hp hlane hlen hbytes
  rw [engineStep_absorb hp, absorbStep_lanes, absorbBlock_get_rate _ _ _ hlane]
  refine congrArg (s.lanes.get x y ^^^ ·) (le64_eq_of_bytes fun b hb => ?_)
  rw [laneIndex, enginePadded_of_lt (by omega)]
  exact hbytes ⟨b, hb⟩

/-- Settles O36: the four exits of the ROUND step. -/
theorem roundStepSequencesTheRun : Obligations.RoundStepSequencesTheRun := fun _ hp =>
  ⟨fun _ => engineStep_nextRound hp,
    fun hr hop => (engineStep_lastRound hp hr).trans (afterLastRound_permute hop),
    fun hr hop hblk => (engineStep_lastRound hp hr).trans (afterLastRound_nextBlock hop hblk),
    fun hr hop hblk => (engineStep_lastRound hp hr).trans (afterLastRound_lastBlock hop hblk)⟩

/-- Settles O37: the step is `formatStep`, whose fields are read off. -/
theorem formatStepPublishesTheResult : Obligations.FormatStepPublishesTheResult := by
  intro s hp
  obtain ⟨hlow, hhigh⟩ :=
    resultWord_reserved s.ctx.nblk s.ctx.pad s.ctx.var (BitVec.ofNat 8 (s.ctx.N.toNat / 4))
  exact ⟨formatStep s, engineStep_format hp, rfl, rfl, resultNblk_resultWord .., resultPad_resultWord ..,
    resultVariant_resultWord .., resultHexlen_resultWord .., hlow, hhigh, rfl, rfl, rfl⟩

/-- Settles O38: in a run every step changes the sequencer; in IDLE there is none. -/
theorem engineHasAStepExactlyWhenBusy : Obligations.EngineHasAStepExactlyWhenBusy := by
  intro s hs
  refine ⟨⟨fun hb => engineStep_ne_self (hs.busy_iff.1 hb), fun hne => ?_⟩, fun hp hsched => ?_⟩
  · exact hs.busy_iff.2 fun hp => hne (engineStep_idle hp)
  · rw [step_of_empty_schedule hsched, engineStep_setBus, engineStep_idle hp]

/-- Settles O39: the fields of the host's side and the run context, which no engine step writes. -/
theorem engineWritesOnlyItsOwn : Obligations.EngineWritesOnlyItsOwn := fun s =>
  ⟨msgByte_engineStep s, engineStep_msg s, engineStep_len s, engineStep_cap s, engineStep_errcode s, engineStep_ctx s,
    engineStep_msgDraw s, engineStep_draws s, engineStep_schedule s, engineStep_bus s⟩

/-- Settles O40: of MSG the engine reads the bytes below L alone. -/
theorem bytesBeyondTheLengthHaveNoEffect : Obligations.BytesBeyondTheLengthHaveNoEffect := by
  intro s m draw hmsg
  have h := engineStep_withHostSide (s := s) (h := { s with msg := m, msgDraw := draw }) hmsg
  rw [engineStep_keeps_hostSide s]
  exact h

/-- Settles O42: the table of nibbles, and the two branches of a character of DIGEST_HEX. -/
theorem formatHexWritesNibblesThenZeros : Obligations.FormatHexWritesNibblesThenZeros := by
  refine ⟨hexChar_eq_table, fun a v i hi => ?nibbles, fun a v j hj => ?zeros⟩
  case nibbles =>
    have hN := outputBits_le v
    rw [formatHex_getElem? a hN (by omega), formatHex_getElem? a hN (by omega), hexCharAt_even, hexCharAt_odd]
    exact ⟨rfl, rfl⟩
  case zeros => rw [formatHex_getElem, if_neg (Nat.not_lt.2 hj)]

/-- Settles O43: the step's RESULT holds HEXLEN of the run's VARIANT, and the characters below it are hex. -/
theorem completedHashHasItsLength : Obligations.CompletedHashHasItsLength := by
  intro s hs hp
  obtain ⟨hrun, -, -⟩ := (runOk_format_iff hp).1 hs.run_ok
  have hlen : (resultHexlen (engineStep s).result).toNat = (outputBits s.ctx.var).toNat / 4 := by
    rw [engineStep_format hp, formatStep_result, resultHexlen_resultWord, hrun.output, hexlen_toNat]
  exact ⟨hlen.trans (hexlen_eq_table _), fun j hj => (isLowerHex_iff _).1 ((hs.engineStep.digest_ok j).1 hj)⟩

end Sys2Proof.Proofs
end

section
/-! PROOFS. The host's reads (R60): the answer for each class of offset, and what an answer depends on. -/

namespace Sys2Proof.Machine
open Sys2Proof.Spec

section
variable (s : State)

theorem memRead_state {k : Nat} (hk : k < 25) :
    memRead s (0x100 + 8 * k) = if s.busy then Config.busyLane s.draws else s.lanes.lane k := by
  have hlane : (0x100 + 8 * k - 0x100) / 8 = k := by omega
  unfold memRead
  rw [if_neg (by omega)]
  simp (disch := omega) only [if_neg, if_pos, hlane]

theorem memRead_hex {w : Nat} (hw : w < 16) :
    memRead s (0x200 + 8 * w) = le64 fun b => s.digestHex[8 * w + b]?.getD 0 := by
  unfold memRead
  rw [if_neg (by omega)]
  simp (disch := omega) only [if_neg, if_pos, Nat.add_sub_cancel_left]

variable {s}

theorem memRead_msg {m : Nat} (hcap : legalMsgCap s.cap = true) (hm : 8 * m < s.cap) :
    memRead s (0x10000 + 8 * m) = le64 fun b => msgByte s (8 * m + b) := by
  have hlt := msgOffset_lt hcap hm
  unfold memRead
  rw [if_neg (by omega)]
  simp (disch := omega) only [if_neg, if_pos, Nat.add_sub_cancel_left]

/-- R60: outside the STATE window of a busy block, an answer depends on the registers alone. -/
theorem memRead_congr {t : State} {off : Nat} (hcap : t.cap = s.cap) (hstatus : statusWord t = statusWord s)
    (hlen : t.len = s.len) (hres : t.result = s.result) (hlanes : t.lanes = s.lanes) (hdig : t.digestHex = s.digestHex)
    (hmsg : ∀ i, msgByte t i = msgByte s i) (hbusy : t.busy = s.busy)
    (hoff : ¬(s.busy = true ∧ 0x100 ≤ off ∧ off < 0x1C8)) : memRead t off = memRead s off := by
  unfold memRead
  simp only [hcap, hstatus, hlen, hres, hlanes, hdig, hmsg, hbusy]
  by_cases hwindow : 0x100 ≤ off ∧ off < 0x1C8
  · have hidle : s.busy ≠ true := fun hb => hoff ⟨hb, hwindow⟩
    simp only [if_neg hidle]
  · simp only [if_neg hwindow]

/-- The offset of a word of MSG as a transaction carries it (R81, R91). -/
theorem symMSG_toNat {cap m : Nat} (hcap : legalMsgCap cap = true) (hm : 8 * m < cap) :
    (symMSG m).toNat = 0x10000 + 8 * m := by
  have hlt := msgOffset_lt hcap hm
  exact Nat.mod_eq_of_lt hlt

/-- R61, as a step: a word written to MSG while BUSY = 0. -/
theorem step_msgWrite {m : Nat} {v : Word} {rest : List Turn} (hcap : legalMsgCap s.cap = true) (hm : 8 * m < s.cap)
    (hb : s.busy = false) (hsched : s.schedule = .host (.write (symMSG m) v) :: rest) :
    step s = .next (writeMsgWord (8 * m) v { s with schedule := rest, bus := .ack }) := by
  have hwrite := memWrite_msg_idle (s := { s with schedule := rest, bus := .ack }) v hcap hm hb
  rw [← symMSG_toNat hcap hm] at hwrite
  exact (step_of_schedule hsched).trans hwrite

end

end Sys2Proof.Machine
end

section
/-! PROOFS. The statements of spec/20_memory.md and spec/10_state.md on what the host reads. -/

namespace Sys2Proof.Proofs
open Sys2Proof.Machine Sys2Proof.Spec

/-- Settles O7: one equation of `memRead` for each register and each window. -/
theorem readAnswersByTheAddressMap : Obligations.ReadAnswersByTheAddressMap := by
  intro s hcap
  refine ⟨rfl, rfl, rfl, rfl, rfl, rfl, fun x y => ?state, fun w i => ?hex, fun m i hm => ?msg, fun off h => ?zero⟩
  case state => rw [memRead_state s (by omega), Lanes.lane_laneIndex]
  case hex =>
    have hindex : 8 * w.val + i.val < 128 := by omega
    rw [memRead_hex s w.isLt, byteOf_le64 _ _ i.isLt, Vector.getElem?_eq_getElem hindex, Option.getD_some]
  case msg => rw [memRead_msg hcap hm, byteOf_le64 _ _ i.isLt]
  case zero => exact h.elim (memRead_misaligned s) (memRead_unmapped s)

/-- Settles O8: a read keeps every register that an answer depends on, and counts itself. -/
theorem readsHaveNoSideEffects : Obligations.ReadsHaveNoSideEffects := by
  intro s off rest hsched
  refine ⟨_, step_of_schedule hsched, rfl, fun off' hoff => ?other, fun k hb => ?state⟩
  case other => exact memRead_congr rfl rfl rfl rfl rfl rfl (fun _ => rfl) rfl hoff
  case state =>
    rw [memRead_state s k.isLt, memRead_state _ k.isLt, if_pos hb]
    exact ⟨rfl, if_pos hb⟩

/-- Settles O11: the read takes the eight bytes of its word, which the write set; another word shares none of them. -/
theorem msgWordReadsBack : Obligations.MsgWordReadsBack := by
  intro s m v rest hcap hm hb hsched
  let w := writeMsgWord (8 * m) v { s with schedule := rest, bus := .ack }
  have hread : step { w with schedule := .host (.read (symMSG m)) :: rest } = .next (hostRead (symMSG m) w) :=
    step_of_schedule (s := { w with schedule := .host (.read (symMSG m)) :: rest }) rfl
  have hword {t : State} {m' : Nat} (ht : t = w ∨ t = hostRead (symMSG m) w) (hm' : 8 * m' < s.cap) :
      memRead t (0x10000 + 8 * m') = le64 fun b => msgByte (writeMsgWord (8 * m) v s) (8 * m' + b) := by
    obtain rfl | rfl := ht <;> exact memRead_msg hcap hm'
  refine ⟨_, (run_succ 1 (step_msgWrite hcap hm hb hsched)).trans (run_succ 0 hread), ?word, fun m' hne => ?other⟩
  case word =>
    rw [hostRead_bus, symMSG_toNat hcap hm, hword (.inl rfl) hm]
    exact congrArg _ (le64_eq_of_bytes fun b hb => msgByte_writeMsgWord_inside (8 * m) ⟨b, hb⟩ v s)
  case other =>
    by_cases hm' : 8 * m' < s.cap
    · rw [memRead_msg hcap hm']
      refine (hword (.inr rfl) hm').trans (le64_congr fun b _ => ?_)
      exact msgByte_writeMsgWord_outside v s (by omega)
    · have hun : unmapped s.cap (0x10000 + 8 * m') := .inr (.inr (.inr (by omega)))
      rw [memRead_unmapped s hun]
      exact memRead_unmapped _ hun

/-- Settles O45: below the MSG window every register but ID and CAP is 0 after a reset, and so is every window. -/
theorem registersReadResetValues : Obligations.RegistersReadResetValues := by
  intro s off hoff
  have hhex : (le64 fun b => (resetBlock s).digestHex[off - 0x200 + b]?.getD 0) = 0 := by
    refine (le64_congr (c := fun _ => 0) fun b _ => ?_).trans (by decide)
    rw [resetBlock_digestHex, Vector.getElem?_replicate]
    split <;> rfl
  have hlane (k : Nat) : (resetBlock s).lanes.lane k = 0 := Lanes.get_zero _ _
  have hmsg : ¬(0x10000 ≤ off ∧ off < 0x10000 + (resetBlock s).cap) := by omega
  rw [memRead, if_neg hmsg]
  simp only [hhex, hlane, statusWord_resetBlock, resetBlock_len, resetBlock_result, resetBlock_busy,
    resetBlock_cap, Bool.false_eq_true, if_false, ite_self]
  by_cases hmis : off % 8 ≠ 0 ∨ 0x20000 ≤ off
  · have hid : off ≠ 0x000 := by omega
    have hcap : off ≠ 0x008 := by omega
    rw [if_pos hmis, if_neg hid, if_neg hcap]
  · rw [if_neg hmis]
    rfl

end Sys2Proof.Proofs
end

section
/-! PROOFS. The walk of rho + pi (R113): the positions it visits, and what the lanes hold after each of its steps. -/

namespace Sys2Proof.Machine

/-! ### The positions -/

/-- The position of the walk before step t (R113): (1, 0), then from (X, Y) to (Y, 2X + 3Y mod 5). -/
def walkPos : Nat → Fin 5 × Fin 5
  | 0 => (1, 0)
  | t + 1 => ((walkPos t).2, 2 * (walkPos t).1 + 3 * (walkPos t).2)

/-- The order that R113 prints. -/
def printedOrder : List (Fin 5 × Fin 5) :=
  [(1, 0), (0, 2), (2, 1), (1, 2), (2, 3), (3, 3), (3, 0), (0, 1), (1, 3), (3, 1), (1, 4), (4, 4),
   (4, 0), (0, 3), (3, 4), (4, 3), (3, 2), (2, 2), (2, 0), (0, 4), (4, 2), (2, 4), (4, 1), (1, 1)]

/-- The walk's 24 targets are distinct. -/
theorem walkPos_succ_ne {t u : Nat} (ht : t < 24) (hu : u < t) : walkPos (u + 1) ≠ walkPos (t + 1) := by
  have distinct : ∀ t : Fin 24, ∀ u : Fin t.val, walkPos (u.val + 1) ≠ walkPos (t.val + 1) := by decide
  exact distinct ⟨t, ht⟩ ⟨u, hu⟩

/-- The walk visits every position but (0, 0). -/
theorem exists_walkPos {x y : Fin 5} (h : (x, y) ≠ (0, 0)) : ∃ t < 24, walkPos t = (x, y) := by
  have covered : ∀ x y : Fin 5, (x, y) ≠ (0, 0) → ∃ t : Fin 24, walkPos t.val = (x, y) := by decide
  obtain ⟨t, ht⟩ := covered x y h
  exact ⟨t.val, t.isLt, ht⟩

/-- No target of the walk is (0, 0). -/
theorem walkPos_ne_origin {t : Nat} (ht : t < 24) : walkPos (t + 1) ≠ (0, 0) := by
  have avoided : ∀ t : Fin 24, walkPos (t.val + 1) ≠ (0, 0) := by decide
  exact avoided ⟨t, ht⟩

/-- R114: the offset that step t rotates by is that of the position it comes from. -/
theorem rhoOffset_walkPos {t : Nat} (ht : t < 24) :
    rhoOffset (walkPos t).1 (walkPos t).2 = (t + 1) * (t + 2) / 2 % 64 := by
  have offsets : ∀ t : Fin 24, rhoOffset (walkPos t.val).1 (walkPos t.val).2 = (t.val + 1) * (t.val + 2) / 2 % 64 := by
    decide
  exact offsets ⟨t, ht⟩

/-! ### The lanes along the walk -/

/-- The walk before step t. -/
def walkAfter (a : Lanes) (t : Nat) : Walk :=
  (List.range t).foldl walkStep { x := 1, y := 0, cur := a.get 1 0, lanes := a }

theorem walkAfter_succ (a : Lanes) (t : Nat) : walkAfter a (t + 1) = walkStep (walkAfter a t) t := by
  rw [walkAfter, List.range_succ, List.foldl_concat, walkAfter]

/-- What holds of the walk before step t: it stands at its t-th position and holds that lane of `a`; the lanes at its
targets so far are those they were carried from, rotated; every other lane is as in `a`. -/
structure WalkOk (a : Lanes) (t : Nat) (w : Walk) : Prop where
  pos : (w.x, w.y) = walkPos t
  held : w.cur = a.get (walkPos t).1 (walkPos t).2
  moved : ∀ u < t, w.lanes.get (walkPos (u + 1)).1 (walkPos (u + 1)).2 =
    rotl64 (a.get (walkPos u).1 (walkPos u).2) ((u + 1) * (u + 2) / 2 % 64)
  kept : ∀ x y, (∀ u < t, walkPos (u + 1) ≠ (x, y)) → w.lanes.get x y = a.get x y

theorem WalkOk.walkStep {a : Lanes} {t : Nat} {w : Walk} (ht : t < 24) (h : WalkOk a t w) :
    WalkOk a (t + 1) (walkStep w t) := by
  obtain ⟨hpos, hheld, hmoved, hkept⟩ := h
  obtain ⟨hx, hy⟩ : w.x = (walkPos t).1 ∧ w.y = (walkPos t).2 := Prod.ext_iff.1 hpos
  have htarget : (w.y, 2 * w.x + 3 * w.y) = walkPos (t + 1) := by rw [hx, hy]; rfl
  have hx' : w.y = (walkPos (t + 1)).1 := congrArg Prod.fst htarget
  have hy' : 2 * w.x + 3 * w.y = (walkPos (t + 1)).2 := congrArg Prod.snd htarget
  have hset (x y : Fin 5) : (Machine.walkStep w t).lanes.get x y =
      if (x, y) = walkPos (t + 1) then rotl64 w.cur ((t + 1) * (t + 2) / 2 % 64) else w.lanes.get x y := by
    rw [← htarget]
    simp only [Machine.walkStep, Lanes.get_set, Prod.mk.injEq]
  refine ⟨htarget, ?held, fun u hu => ?moved, fun x y hxy => ?kept⟩
  case held =>
    show w.lanes.get w.y (2 * w.x + 3 * w.y) = _
    rw [hy', hx']
    exact hkept _ _ fun u hu => walkPos_succ_ne ht hu
  case moved =>
    rw [hset]
    obtain hlt | rfl := Nat.lt_succ_iff_lt_or_eq.1 hu
    · rw [if_neg (walkPos_succ_ne ht hlt), hmoved u hlt]
    · rw [if_pos rfl, hheld]
  case kept =>
    rw [hset, if_neg fun h => hxy t (Nat.lt_succ_self t) h.symm]
    exact hkept x y fun u hu => hxy u (Nat.lt_succ_of_lt hu)

theorem walkOk_walkAfter (a : Lanes) {t : Nat} (ht : t ≤ 24) : WalkOk a t (walkAfter a t) := by
  induction t with
  | zero => exact ⟨rfl, rfl, nofun, fun _ _ _ => rfl⟩
  | succ t ih =>
    rw [walkAfter_succ]
    exact (ih (Nat.le_of_succ_le ht)).walkStep ht

/-- R113, R114: rho + pi lane by lane. -/
theorem rhoPi_get (a : Lanes) (x y : Fin 5) : (rhoPi a).get y (2 * x + 3 * y) = rotl64 (a.get x y) (rhoOffset x y) := by
  have hwalk : WalkOk a 24 (walkAfter a 24) := walkOk_walkAfter a (Nat.le_refl 24)
  show (walkAfter a 24).lanes.get y (2 * x + 3 * y) = _
  by_cases horigin : (x, y) = (0, 0)
  · obtain ⟨rfl, rfl⟩ := Prod.mk.inj horigin
    exact (hwalk.kept 0 0 fun u hu => walkPos_ne_origin hu).trans (rotl64_of_mod_eq_zero _ rfl).symm
  · obtain ⟨t, ht, hpos⟩ := exists_walkPos horigin
    have hmoved := hwalk.moved t ht
    rw [← rhoOffset_walkPos ht, walkPos, hpos] at hmoved
    exact hmoved

end Sys2Proof.Machine
end

section
/-! PROOFS. The statements of spec/41_permutation.md on rho + pi, the round constants and the order of the rounds, and of
spec/44_variant_frontend.md on the tables. -/

namespace Sys2Proof.Proofs
open Sys2Proof.Machine Sys2Proof.Spec

/-- Settles O25: the walk's invariant after all 24 steps; the printed order is that of the walk's positions. -/
theorem rhoPiTraversalEqualsTable : Obligations.RhoPiTraversalEqualsTable := by
  refine ⟨rhoPi_get, fun t => ?order, by decide⟩
  case order =>
    have hpos : ∀ t : Fin 24, printedOrder.getD t.val (0, 0) = walkPos t.val := by decide
    exact (congrArg (fun p : Fin 5 × Fin 5 => rhoOffset p.1 p.2) (hpos t)).trans (rhoOffset_walkPos t.isLt)

/-- Settles O28: the 24 constants, one by one. -/
theorem roundConstantsEqualTheLfsr : Obligations.RoundConstantsEqualTheLfsr := by
  unfold Obligations.RoundConstantsEqualTheLfsr
  decide

/-- Settles O29: the round and the permutation by definition, and the two vectors by evaluation. -/
theorem roundsInOrder : Obligations.RoundsInOrder := by
  refine ⟨fun _ _ => rfl, fun a => ?order, by decide, by decide⟩
  case order =>
    have hrounds : List.finRange 24 = (List.range 24).map (Fin.ofNat 24) := by decide
    rw [keccakF, hrounds, List.foldl_map]

/-- Settles O33: the tables have four rows and two. -/
theorem variantAndDomainTables : Obligations.VariantAndDomainTables := by
  unfold Obligations.VariantAndDomainTables
  decide

end Sys2Proof.Proofs
end

section
/-! PROOFS. The statements of spec/40_padding.md on the padded message. -/

namespace Sys2Proof.Proofs
open Sys2Proof.Machine Sys2Proof.Spec

/-- Settles O31: the message, then the padding, each read at its own indexes. -/
theorem paddedFunctionReadsThePaddedMessage : Obligations.PaddedFunctionReadsThePaddedMessage := by
  intro M R d hR hd
  refine ⟨padBytes_of_one, padBytes_of_two_le, length_paddedMessage M d hR, ?last,
    fun msg hmsg i hi => paddedByte_eq_getD M d hR hmsg hi⟩
  case last =>
    have hlast : (paddedMessage M R d).getLast? = (padBytes M.length R d).getLast? :=
      List.getLast?_append_of_ne_nil _ fun hnil => by
        have hlen := length_padBytes (L := M.length) (d := d) hR
        have hpos := padLength_pos (L := M.length) hR
        rw [hnil, List.length_nil] at hlen
        omega
    rw [hlast, getLast?_padBytes hR]
    by_cases h1 : padLength M.length R = 1
    · obtain rfl | rfl := hd
      · exact .inr (.inr (by rw [if_pos h1]; rfl))
      · exact .inr (.inl (by rw [if_pos h1]; rfl))
    · exact .inl (by rw [if_neg h1])

/-- Settles O32: the message is the same and d is the first padding byte alone. -/
theorem paddingsDifferInOneByte : Obligations.PaddingsDifferInOneByte := by
  intro M R hR
  refine ⟨fun i hi => ?other, fun hq => ?two, fun hq => ?one⟩
  case other =>
    by_cases hm : i < M.length
    · rw [getD_paddedMessage_message M _ hm, getD_paddedMessage_message M _ hm]
    · rw [getD_paddedMessage_padding M _ (by omega), getD_paddedMessage_padding M _ (by omega)]
      by_cases hj : i - M.length < padLength M.length R
      · have hmore : padLength M.length R ≠ 1 := by omega
        have hnotFirst : i - M.length ≠ 0 := by omega
        rw [getD_padBytes hj, getD_padBytes hj, padByte, padByte, if_neg hmore, if_neg hmore,
          if_neg hnotFirst, if_neg hnotFirst]
      · rw [List.getD_eq_default, List.getD_eq_default] <;> rw [length_padBytes hR] <;> omega
  case two =>
    rw [getD_paddedMessage_padding M _ (Nat.le_refl _), getD_paddedMessage_padding M _ (Nat.le_refl _), Nat.sub_self,
      padBytes_of_two_le hq, padBytes_of_two_le hq]
    exact ⟨rfl, rfl⟩
  case one =>
    rw [getD_paddedMessage_padding M _ (Nat.le_refl _), getD_paddedMessage_padding M _ (Nat.le_refl _), Nat.sub_self,
      padBytes_of_one hq, padBytes_of_one hq]
    exact ⟨rfl, rfl⟩

end Sys2Proof.Proofs
end

section
/-! PROOFS. What a run computes (R132, R134): 24 ROUND steps are Keccak-f[1600], 25 steps of a HASH are one block of
SpongeAbsorb, and its blocks are those of the padded message. -/

namespace Sys2Proof.Machine
open Sys2Proof.Spec

/-! ### Rounds -/

/-- R141: from round i on, 24 − i ROUND steps apply the rounds that are left. -/
theorem engineSteps_rounds {s : State} (hp : s.phase = .round) {n : Nat} (hn : s.rnd.val + n = 23) :
    engineSteps (n + 1) s = afterLastRound
      { s with lanes := ((List.finRange 24).drop s.rnd.val).foldl keccakRound s.lanes, rnd := 23 } := by
  induction n generalizing s with
  | zero =>
    have hr : s.rnd = 23 := Fin.ext hn
    have hleft : (List.finRange 24).drop (23 : Fin 24).val = [23] := by decide
    rw [engineSteps_succ, engineSteps, engineStep_lastRound hp hn, hr, hleft]
    rfl
  | succ n ih =>
    have hlt : s.rnd.val + 1 < 24 := by omega
    have hleft : (List.finRange 24).drop s.rnd.val = s.rnd :: (List.finRange 24).drop (s.rnd.val + 1) := by
      rw [List.drop_eq_getElem_cons (by simp)]
      simp
    have hnext := engineStep_nextRound hp (i := ⟨s.rnd.val + 1, hlt⟩) (by omega) rfl
    have hsum : s.rnd.val + 1 + n = 23 := by omega
    rw [engineSteps_succ, hnext, hleft]
    exact ih (s := { s with lanes := keccakRound s.lanes s.rnd, rnd := ⟨s.rnd.val + 1, hlt⟩ }) hp hsum

/-- R120: 24 ROUND steps from round 0 are Keccak-f[1600]. -/
theorem engineSteps_keccakF {s : State} (hp : s.phase = .round) (hr : s.rnd = 0) :
    engineSteps 24 s = afterLastRound { s with lanes := keccakF s.lanes, rnd := 23 } := by
  have h := engineSteps_rounds hp (n := 23) (by rw [hr]; rfl)
  rw [hr] at h
  exact h

/-! ### Blocks -/

/-- One block of SpongeAbsorb (R132) with the engine's padded message and rate. -/
def absorbedBlock (s : State) (a : Lanes) (b : Nat) : Lanes :=
  keccakF (absorbBlock (enginePadded s) s.ctx.R.toNat (b * s.ctx.R.toNat) a)

/-- R140, R141: the 25 steps of a block. -/
theorem engineSteps_block {s : State} (hp : s.phase = .absorb) :
    engineSteps 25 s = afterLastRound
      { s with lanes := absorbedBlock s s.lanes s.blk.toNat, rnd := 23, phase := .round } := by
  rw [engineSteps_succ, engineStep_absorb hp, engineSteps_keccakF (absorbStep_phase s) (absorbStep_rnd s)]
  rfl

/-- The state in which the next block's ABSORB step comes (R141). -/
def State.afterBlock (s : State) : State :=
  { s with lanes := absorbedBlock s s.lanes s.blk.toNat, rnd := 23, blk := s.blk + 1, phase := .absorb }

theorem State.afterBlock_lanes (s : State) : s.afterBlock.lanes = absorbedBlock s s.lanes s.blk.toNat := rfl

/-- The block that a run absorbs does not depend on where the run stands. -/
theorem absorbedBlock_afterBlock (s : State) : absorbedBlock s.afterBlock = absorbedBlock s := by
  funext a b
  have hpadded : enginePadded s.afterBlock = enginePadded s := enginePadded_congr rfl fun _ _ => rfl
  rw [absorbedBlock, hpadded]
  rfl

/-- R141: the steps of the m + 1 blocks that are left absorb them in order and lead to FORMAT. -/
theorem engineSteps_blocks {s : State} (hrun : HashRunOk s) (hp : s.phase = .absorb) {m : Nat}
    (hm : s.blk.toNat + (m + 1) = s.ctx.nblk.toNat) :
    ∃ blk, engineSteps (25 * (m + 1)) s =
      { s with
        lanes := (List.range' s.blk.toNat (m + 1)).foldl (absorbedBlock s) s.lanes
        rnd := 23, blk := blk, phase := .format } := by
  have hop : s.ctx.op ≠ .permute := by rw [hrun.op_hash]; decide
  induction m generalizing s with
  | zero =>
    have hlast : ¬s.blk.toNat + 1 < s.ctx.nblk.toNat := by omega
    exact ⟨s.blk, (engineSteps_block hp).trans (afterLastRound_lastBlock hop hlast)⟩
  | succ m ih =>
    have hnext : s.blk.toNat + 1 < s.ctx.nblk.toNat := by omega
    have hblock : engineSteps 25 s = s.afterBlock := (engineSteps_block hp).trans (afterLastRound_nextBlock hop hnext)
    have hblk : s.afterBlock.blk.toNat = s.blk.toNat + 1 := blk_succ_toNat hnext
    have hsum : s.afterBlock.blk.toNat + (m + 1) = s.ctx.nblk.toNat := by omega
    have hblocks : List.range' s.blk.toNat (m + 1 + 1) = s.blk.toNat :: List.range' (s.blk.toNat + 1) (m + 1) :=
      List.range'_succ
    obtain ⟨blk, hrest⟩ := ih (s := s.afterBlock) (hrun.nextBlock hnext rfl rfl rfl) rfl hsum hop
    refine ⟨blk, ?_⟩
    rw [show 25 * (m + 1 + 1) = 25 + 25 * (m + 1) by omega, engineSteps_add, hblock, hrest, hblk,
      absorbedBlock_afterBlock, hblocks, List.foldl_cons, ← State.afterBlock_lanes]
    rfl

/-! ### The sponge -/

/-- An ABSORB step reads the R bytes of its block alone (R140). -/
theorem absorbBlock_congr {P Q : Nat → Byte} {R base : Nat} (h : ∀ i, base ≤ i → i < base + R → P i = Q i) (a : Lanes) :
    absorbBlock P R base a = absorbBlock Q R base a := by
  refine Lanes.ext_get fun x y => ?_
  by_cases hlane : laneIndex x y < R / 8
  · rw [absorbBlock_get_rate P base a hlane, absorbBlock_get_rate Q base a hlane]
    exact congrArg _ (le64_congr fun b hb => h _ (by omega) (by omega))
  · rw [absorbBlock_get_capacity P base a (by omega), absorbBlock_get_capacity Q base a (by omega)]

theorem length_messageOf (s : State) (L : Nat) : (messageOf s L).length = L := by
  rw [messageOf, List.length_map, List.length_range]

theorem getD_messageOf (s : State) {L i : Nat} (hi : i < L) : (messageOf s L).getD i 0 = msgByte s i := by
  simp [messageOf, hi]

/-- R103: in a HASH run the engine reads the padded message. -/
theorem HashRunOk.enginePadded_eq {s : State} (hrun : HashRunOk s) (hR : 0 < s.ctx.R.toNat) {i : Nat}
    (hi : i < blockCount s.ctx.L.toNat s.ctx.R.toNat * s.ctx.R.toNat) :
    enginePadded s i = (paddedMessage (messageOf s s.ctx.L.toNat) s.ctx.R.toNat s.ctx.d).getD i 0 := by
  have hlen := length_messageOf s s.ctx.L.toNat
  have h := paddedByte_eq_getD (messageOf s s.ctx.L.toNat) s.ctx.d hR (msg := msgByte s) (i := i)
  rw [hlen] at h
  rw [enginePadded, hrun.blocks]
  exact h (fun j hj => (getD_messageOf s hj).symm) hi

/-- R132: absorbing all the blocks of a run is SpongeAbsorb of its message. -/
theorem HashRunOk.foldl_absorbedBlock {s : State} (hrun : HashRunOk s) (hR : 0 < s.ctx.R.toNat) :
    (List.range s.ctx.nblk.toNat).foldl (absorbedBlock s) Lanes.zero =
      spongeAbsorb (messageOf s s.ctx.L.toNat) s.ctx.R.toNat s.ctx.d := by
  rw [spongeAbsorb, length_messageOf, hrun.blocks]
  refine List.foldl_ext _ _ _ fun a b hb => congrArg keccakF (absorbBlock_congr (fun i _ hi => ?_) a)
  have hinside : (b + 1) * s.ctx.R.toNat ≤ blockCount s.ctx.L.toNat s.ctx.R.toNat * s.ctx.R.toNat :=
    Nat.mul_le_mul_right _ (List.mem_range.1 hb)
  rw [Nat.succ_mul] at hinside
  exact hrun.enginePadded_eq hR (by omega)

/-! ### Whole runs -/

/-- R132: the end of a HASH run is the FORMAT step on SpongeAbsorb of the message. -/
theorem engineSteps_hashStarted {r : HashRow} (hr : r ∈ hashRows) {s : State} (hcap : legalMsgCap s.cap = true)
    (hlen : s.len.toNat ≤ s.cap) :
    ∃ blk, engineSteps ((s.len.toNat / r.rate + 1) * 25 + 1) (hashStarted r s) =
      formatStep { hashStarted r s with
        lanes := spongeAbsorb (messageOf s s.len.toNat) r.rate r.dom, rnd := 23, blk := blk, phase := .format } := by
  have hrun := hashRunOk_hashStarted hr hcap hlen
  have hnblk := hashStarted_nblk hr hcap hlen
  have hR := hashStarted_R hr s
  have hsponge : (List.range' 0 (s.len.toNat / r.rate + 1)).foldl (absorbedBlock (hashStarted r s)) Lanes.zero =
      spongeAbsorb (messageOf s s.len.toNat) r.rate r.dom := by
    have h := hrun.foldl_absorbedBlock (by rw [hR]; exact (hashRow_rate hr).2)
    rw [hR, hnblk, List.range_eq_range'] at h
    exact h
  obtain ⟨blk, hblocks⟩ := engineSteps_blocks hrun rfl (m := s.len.toNat / r.rate)
    (by rw [hnblk]; exact Nat.zero_add _)
  refine ⟨blk, ?_⟩
  rw [Nat.mul_comm, engineSteps_add, hblocks, ← hsponge, engineSteps_succ, engineStep_format]
  · rfl
  · rfl

/-- What a completed HASH leaves (R132, R142): idle, with SpongeAbsorb of the message, its digest and RESULT. -/
structure HashDone (r : HashRow) (s u : State) : Prop where
  lanes : u.lanes = spongeAbsorb (messageOf s s.len.toNat) r.rate r.dom
  digestHex : u.digestHex = formatHex (spongeAbsorb (messageOf s s.len.toNat) r.rate r.dom) r.bits
  result : u.result = resultWord (BitVec.ofNat 32 (s.len.toNat / r.rate + 1)) r.pad r.var (BitVec.ofNat 8 (r.bits / 4))
  busy : u.busy = false
  done : u.done = true
  phase : u.phase = .idle

theorem hashDone_engineSteps {r : HashRow} (hr : r ∈ hashRows) {s : State} (hcap : legalMsgCap s.cap = true)
    (hlen : s.len.toNat ≤ s.cap) :
    HashDone r s (engineSteps ((s.len.toNat / r.rate + 1) * 25 + 1) (hashStarted r s)) := by
  obtain ⟨blk, hend⟩ := engineSteps_hashStarted hr hcap hlen
  have hN := hashStarted_N hr s
  rw [hend]
  constructor
  case digestHex => rw [formatStep_digestHex, hN]
  case result => rw [formatStep_result, hN]; rfl
  all_goals rfl

theorem HashDone.of_runView {r : HashRow} {s u u' : State} (h : HashDone r s u) (hview : u'.runView = u.runView) :
    HashDone r s u' where
  lanes := (congrArg State.lanes hview).trans h.lanes
  digestHex := (congrArg State.digestHex hview).trans h.digestHex
  result := (congrArg State.result hview).trans h.result
  busy := (congrArg State.busy hview).trans h.busy
  done := (congrArg State.done hview).trans h.done
  phase := (congrArg State.phase hview).trans h.phase

/-- R134: the end of a PERMUTE run. -/
theorem engineSteps_permuteStarted (s : State) :
    engineSteps 24 (permuteStarted s) =
      { permuteStarted s with lanes := keccakF s.lanes, rnd := 23, phase := .idle, busy := false, done := true } :=
  (engineSteps_keccakF rfl rfl).trans (afterLastRound_permute rfl)

end Sys2Proof.Machine
end

section
/-! PROOFS. Interleavings (R68): what the host's turns and the engine's turns do to the part of the block that a run
computes with. -/

namespace Sys2Proof.Machine
open Sys2Proof.Spec

/-- Equal but for what a host transaction may touch during a run stays so under the engine. -/
theorem engineStep_runView (s : State) : (engineStep s).runView = engineStep s.runView := by
  have h := engineStep_withHostSide_of_msg (s := s) (h := s.runView) rfl rfl
  rw [engineStep_keeps_hostSide s]
  exact h.symm

theorem engineSteps_runView (n : Nat) (s : State) : (engineSteps n s).runView = engineSteps n s.runView := by
  induction n generalizing s with
  | zero => rfl
  | succ n ih => rw [engineSteps_succ, ih, engineStep_runView, engineSteps_succ]

theorem engineSteps_runView_congr {s s' : State} (h : s'.runView = s.runView) (n : Nat) :
    (engineSteps n s').runView = (engineSteps n s).runView := by
  rw [engineSteps_runView, h, engineSteps_runView]

theorem step_schedule {s t : State} (h : step s = .next t) : t.schedule = s.schedule.tail := by
  cases stepEffect_of_step h with
  | command i _ _ => exact effect_schedule i _
  | engine _ => exact engineStep_schedule _
  | read _ _ | ignoredWrite _ _ _ _ | busyCommand _ _ _ | illegalCommand _ _ _ _ | busyData _ _ _ _ _ _
  | lenWrite _ _ _ | msgWrite _ _ _ _ _ _ _ | reset _ => rfl

/-- R68, R183: while BUSY = 1 a host transaction touches ERRCODE and the host's side of the bus alone. -/
theorem step_host_runView {s t : State} {tr : Transaction} (hb : s.busy = true) (hturn : nextTurn s = .host tr)
    (h : step s = .next t) : t.runView = s.runView := by
  cases stepEffect_of_step h with
  | illegalCommand _ _ _ idle | command _ _ idle | lenWrite _ _ idle | msgWrite _ _ _ _ _ _ idle =>
    exact absurd hb (by simp [idle])
  | engine turn | reset turn => exact nomatch hturn.symm.trans turn
  | read _ _ | ignoredWrite _ _ _ _ | busyCommand _ _ _ | busyData _ _ _ _ _ _ => rfl

theorem step_engine_runView {s t : State} (hturn : nextTurn s = .engine) (h : step s = .next t) :
    t.runView = (engineStep s).runView := by
  rw [step_eq, hturn] at h
  cases h
  rw [engineStep_runView, engineStep_runView]
  rfl

/-- R68: turns without a reset that end with an engine turn, all of them inside the run, are as many engine steps. -/
theorem run_turns_runView {s u : State} {turns : List Turn} (hsched : s.schedule = turns ++ [.engine])
    (hreset : Turn.reset ∉ turns) (hbusy : ∀ n ≤ turns.count .engine, (engineSteps n s).busy = true)
    (hrun : run (turns.length + 1) s = .next u) : u.runView = (engineSteps (turns.count .engine + 1) s).runView := by
  induction turns generalizing s with
  | nil =>
    obtain ⟨t, ht⟩ := step_answers s
    rw [List.length_nil, run_succ 0 ht] at hrun
    cases hrun
    exact step_engine_runView (nextTurn_of_schedule hsched) ht
  | cons τ turns ih =>
    obtain ⟨t, ht⟩ := step_answers s
    have hturn := nextTurn_of_schedule hsched
    have htsched : t.schedule = turns ++ [.engine] := by rw [step_schedule ht, hsched]; rfl
    have hreset' : Turn.reset ∉ turns := fun h => hreset (List.mem_cons_of_mem _ h)
    rw [List.length_cons, run_succ _ ht] at hrun
    cases τ with
    | reset => exact absurd List.mem_cons_self hreset
    | engine =>
      have hview (n : Nat) := engineSteps_runView_congr (step_engine_runView hturn ht) n
      rw [List.count_cons_self] at hbusy ⊢
      have hbusy' : ∀ n ≤ turns.count .engine, (engineSteps n t).busy = true := fun n hn =>
        (congrArg State.busy (hview n)).trans (hbusy (n + 1) (by omega))
      exact (ih htsched hreset' hbusy' hrun).trans (hview _)
    | host tr =>
      have hview (n : Nat) := engineSteps_runView_congr (step_host_runView (hbusy 0 (Nat.zero_le _)) hturn ht) n
      rw [List.count_cons_of_ne (by simp)] at hbusy ⊢
      have hbusy' : ∀ n ≤ turns.count .engine, (engineSteps n t).busy = true := fun n hn =>
        (congrArg State.busy (hview n)).trans (hbusy n hn)
      exact (ih htsched hreset' hbusy' hrun).trans (hview _)

/-- R68, from the state whose schedule is set aside. -/
theorem run_interleaved_runView {s u : State} {turns : List Turn} (hreset : Turn.reset ∉ turns)
    (hbusy : ∀ n ≤ turns.count .engine, (engineSteps n s).busy = true)
    (hrun : run (turns.length + 1) { s with schedule := turns ++ [.engine] } = .next u) :
    u.runView = (engineSteps (turns.count .engine + 1) s).runView := by
  have hview (n : Nat) := engineSteps_runView_congr (s := s) (s' := { s with schedule := turns ++ [.engine] }) rfl n
  exact (run_turns_runView rfl hreset (fun n hn => (congrArg State.busy (hview n)).trans (hbusy n hn)) hrun).trans
    (hview _)

/-- The end of a HASH run under any interleaving. -/
theorem hashDone_run {r : HashRow} (hr : r ∈ hashRows) {s u : State} {turns : List Turn}
    (hcap : legalMsgCap s.cap = true) (hlen : s.len.toNat ≤ s.cap) (hreset : Turn.reset ∉ turns)
    (hcount : turns.count .engine = (s.len.toNat / r.rate + 1) * 25)
    (hrun : run (turns.length + 1) { hashStarted r s with schedule := turns ++ [.engine] } = .next u) :
    HashDone r s u := by
  have hbusy : ∀ n ≤ turns.count .engine, (engineSteps n (hashStarted r s)).busy = true := fun n hn =>
    (inRun_hashStarted hr hcap hlen).engineSteps_busy (by rw [engineStepsLeft_hashStarted hr hcap hlen]; omega)
  have hview := run_interleaved_runView hreset hbusy hrun
  rw [hcount] at hview
  exact (hashDone_engineSteps hr hcap hlen).of_runView hview

end Sys2Proof.Machine
end

section
/-! PROOFS. The statements of spec/42_sponge_fsm.md and spec/20_memory.md on whole runs. -/

namespace Sys2Proof.Proofs
open Sys2Proof.Machine Sys2Proof.Spec

/-- Settles O54: each step is one of those a run still takes, and the last one ends it; the counts at the start of both
kinds of run. -/
theorem everyRunEndsInItsStepCount : Obligations.EveryRunEndsInItsStepCount :=
  ⟨fun _ hs hb => ⟨fun _ hn => (hs.inRun hb).engineSteps_busy hn, (hs.inRun hb).engineSteps_end⟩,
    fun _ hr _ => engineStepsLeft_hashStarted hr, engineStepsLeft_permuteStarted⟩

/-- Settles O55: the accepted HASH, its blocks and the FORMAT step, under the empty schedule. -/
theorem hashRunComputesTheSponge : Obligations.HashRunComputesTheSponge := by
  intro r hr s hcap hb hlen
  have hexec := exec_hashRow_fits (s := { s with schedule := [] }) hr hb hlen
  have hdone := hashDone_engineSteps (s := { s with schedule := [] }) hr hcap hlen
  have hside := engineSteps_keeps_hostSide ((s.len.toNat / r.rate + 1) * 25 + 1) (hashStarted r { s with schedule := [] })
  exact ⟨_, _, hexec, run_of_empty_schedule rfl _, hdone.lanes, hdone.digestHex, hdone.result, hdone.busy, hdone.done,
    (congrArg State.errcode hside :), hdone.phase, (congrArg State.len hside :), (congrArg State.msg hside :),
    (congrArg State.cap hside :)⟩

/-- Settles O56: the accepted PERMUTE and its 24 rounds, under the empty schedule; the rejections are those of every
command. -/
theorem permuteRunAppliesKeccakF : Obligations.PermuteRunAppliesKeccakF := by
  refine ⟨fun s hb => ?run, fun s => exec_busy .permute, fun s w hb hop hhigh => ?illegal⟩
  case run =>
    have hexec := exec_permute_idle (s := { s with schedule := [] }) hb
    refine ⟨_, _, hexec, rfl, rfl, rfl, run_of_empty_schedule rfl 23, ?_⟩
    rw [engineSteps_permuteStarted]
    exact ⟨rfl, rfl, rfl, rfl, rfl, rfl, rfl, rfl, rfl, rfl⟩
  case illegal => exact command_illegal hb (decode_op_with_high_bits (.inl hop) hhigh)

/-- Settles O57: host turns leave the run's side of the block, and engine turns are engine steps of it. -/
theorem runIsTheSameUnderEveryInterleaving : Obligations.RunIsTheSameUnderEveryInterleaving := fun _ _ _ =>
  run_interleaved_runView

/-- Settles O58: the end of a HASH run is a function of the command, LEN and the message bytes. -/
theorem hashRunsAreDeterministicAndIsolated : Obligations.HashRunsAreDeterministicAndIsolated := by
  intro r hr s₁ s₂ t₁ t₂ u₁ u₂ turns₁ turns₂ hcap₁ hcap₂ hb₁ hb₂ hlen hfits₁ hfits₂ hmsg hexec₁ hexec₂ hreset₁ hcount₁
    hreset₂ hcount₂ hrun₁ hrun₂
  have hmessage : messageOf s₁ s₁.len.toNat = messageOf s₂ s₂.len.toNat := by
    rw [← hlen]
    exact List.map_congr_left fun i hi => hmsg i (List.mem_range.1 hi)
  cases hexec₁.symm.trans (exec_hashRow_fits hr hb₁ hfits₁)
  cases hexec₂.symm.trans (exec_hashRow_fits hr hb₂ hfits₂)
  have hdone₁ := hashDone_run hr hcap₁ hfits₁ hreset₁ hcount₁ hrun₁
  have hdone₂ := hashDone_run hr hcap₂ hfits₂ hreset₂ hcount₂ hrun₂
  exact ⟨hdone₁.busy, hdone₂.busy, by rw [hdone₁.lanes, hdone₂.lanes, hmessage],
    by rw [hdone₁.digestHex, hdone₂.digestHex, hmessage], by rw [hdone₁.result, hdone₂.result, hlen]⟩

end Sys2Proof.Proofs
end

section
/-! PROOFS. The writes of `load_msg` (R92): what the words of the message leave in MSG, and the LEN write after them. -/

namespace Sys2Proof.Machine
open Sys2Proof.Spec

/-- The turns that write words k, ..., k + n − 1 of the message (R92). -/
def messageTurns (M : List Byte) (k n : Nat) : List Turn :=
  (List.range' k n).map fun m => .host (.write (symMSG m) (messageWord M m))

theorem messageTurns_succ (M : List Byte) (k n : Nat) :
    messageTurns M k (n + 1) = .host (.write (symMSG k) (messageWord M k)) :: messageTurns M (k + 1) n := by
  rw [messageTurns, List.range'_succ, List.map_cons, messageTurns]

theorem scriptLoadMsg_turns (M : List Byte) :
    (scriptLoadMsg M).map Turn.host =
      messageTurns M 0 ((M.length + 7) / 8) ++ [.host (.write symLEN (BitVec.ofNat 64 M.length))] := by
  rw [scriptLoadMsg, List.map_append, List.map_map, List.range_eq_range']
  rfl

theorem length_scriptLoadMsg (M : List Byte) : (scriptLoadMsg M).length = (M.length + 7) / 8 + 1 := by
  simp [scriptLoadMsg]

/-- Byte b of word m of the message (R92). -/
theorem byteOf_messageWord (M : List Byte) (m : Nat) {b : Nat} (hb : b < 8) :
    byteOf (messageWord M m) b = M.getD (8 * m + b) 0 :=
  byteOf_le64 _ b hb

/-- The words k, ..., k + n − 1 of the message, written on an idle block: their bytes and nothing else of MSG. -/
theorem run_messageTurns {s : State} {M : List Byte} {k n : Nat} {rest : List Turn} (hcap : legalMsgCap s.cap = true)
    (hb : s.busy = false) (hfits : 8 * (k + n) ≤ s.cap) (hsched : s.schedule = messageTurns M k n ++ rest) :
    ∃ t, run n s = .next t ∧ t = { s with msg := t.msg, bus := t.bus, schedule := rest } ∧
      ∀ i, msgByte t i = if 8 * k ≤ i ∧ i < 8 * (k + n) then M.getD i 0 else msgByte s i := by
  induction n generalizing s k with
  | zero =>
    rw [show messageTurns M k 0 = [] from rfl, List.nil_append] at hsched
    refine ⟨s, rfl, by rw [← hsched], fun i => ?_⟩
    rw [if_neg (by omega)]
  | succ n ih =>
    rw [messageTurns_succ, List.cons_append] at hsched
    let w := writeMsgWord (8 * k) (messageWord M k) { s with schedule := messageTurns M (k + 1) n ++ rest, bus := .ack }
    have hstep : step s = .next w := step_msgWrite hcap (by omega) hb hsched
    have hword (i : Nat) : msgByte w i =
        if 8 * k ≤ i ∧ i < 8 * k + 8 then byteOf (messageWord M k) (i - 8 * k) else msgByte s i :=
      msgByte_writeMsgWord (8 * k) i (messageWord M k) _
    have hrest : 8 * (k + 1 + n) ≤ s.cap := by omega
    obtain ⟨t, hrun, ht, hbytes⟩ := ih (s := w) hcap hb hrest rfl
    refine ⟨t, (run_succ n hstep).trans hrun, ht, fun i => ?_⟩
    rw [hbytes, hword]
    by_cases hfirst : 8 * k ≤ i ∧ i < 8 * k + 8
    · rw [if_neg (by omega), if_pos hfirst, if_pos (by omega), byteOf_messageWord M k (by omega),
        Nat.add_sub_cancel' hfirst.1]
    · rw [if_neg hfirst]
      exact if_congr (by omega) rfl rfl

theorem step_lenWrite {s : State} {v : Word} {rest : List Turn} (hb : s.busy = false)
    (hsched : s.schedule = .host (.write symLEN v) :: rest) :
    step s = .next { s with len := v, schedule := rest, bus := .ack } :=
  (step_of_schedule hsched).trans (memWrite_len_idle (s := { s with schedule := rest, bus := .ack }) v hb)

end Sys2Proof.Machine
end

section
/-! PROOFS. The statement of spec/30_encoding.md on the host script's `load_msg`. -/

namespace Sys2Proof.Proofs
open Sys2Proof.Machine Sys2Proof.Spec

/-- Settles O59: the words of the message one after the other, then LEN. -/
theorem loadMsgPlacesTheMessage : Obligations.LoadMsgPlacesTheMessage := by
  intro s M hcap hb hlen
  have ⟨_, _, hmod⟩ := (legalMsgCap_iff s.cap).1 hcap
  have hfits : 8 * (0 + (M.length + 7) / 8) ≤ s.cap := by omega
  obtain ⟨w, hrun, hw, hbytes⟩ := run_messageTurns (s := { s with schedule := (scriptLoadMsg M).map .host })
    hcap hb hfits (scriptLoadMsg_turns M)
  have hwbusy : w.busy = false := by rw [hw]; exact hb
  have hwsched : w.schedule = [.host (.write symLEN (BitVec.ofNat 64 M.length))] := by rw [hw]
  have hstep := step_lenWrite hwbusy hwsched
  refine ⟨{ w with len := BitVec.ofNat 64 M.length, schedule := [], bus := .ack }, ?run, rfl,
    fun i hi => (hbytes i).trans (if_pos (by omega)),
    fun i hi => (hbytes i).trans (if_neg (by omega)), ?frame⟩
  case run =>
    rw [length_scriptLoadMsg, run_add _ 1 hrun]
    exact run_succ 0 hstep
  case frame => rw [hw]

end Sys2Proof.Proofs
end
